-- ==== Sys2Proof/Word.lean ====
section
/-! DEFINITION. The word types of PACX (spec 00_scope.md R8, R14): everything the spec treats as bits. -/

namespace Sys2Proof

/-- A byte of the source, of a record image or of a destination. -/
abbrev Byte := BitVec 8

/-- A 16-bit UTF-16 unit of a text field (R19); PACX never converts it (R116). -/
abbrev CodeUnit := BitVec 16

/-- A host register, a command word, or a 32-bit record field. -/
abbrev Word32 := BitVec 32

/-- The width of CUR, L, ARG and the error values (R8). -/
abbrev Word64 := BitVec 64

end Sys2Proof
end

