-- ==== Sys2Proof/Syntax.lean ====
section
/-! DEFINITION. The commands of PACX: one constructor per row of spec/opcode_table.json (30_encoding.md R88). -/

namespace Sys2Proof

/-- A command with its operand fields (R87). The only operand that is no field is register ARG, which SEEK reads. -/
inductive Instr where
  /-- CK_RESET (R131) -/
  | ckReset
  /-- CK_UPDATE b (R132): BYTE = w[15:8] -/
  | ckUpdate (b : Byte)
  /-- SEEK (R111) -/
  | seek
  /-- RD_U16 (R112) -/
  | rdU16
  /-- RD_U32 (R113) -/
  | rdU32
  /-- RD_TEXT N (R114): N = w[24:16], legal only in 1..256 (R91) -/
  | rdText (n : BitVec 9)
  /-- HDR_DECODE (R146) -/
  | hdrDecode
  /-- VAL_STRUCT (R165) -/
  | valStruct
  /-- PT_DECODE (R150) -/
  | ptDecode
  /-- VAL_CKSUM (R170) -/
  | valCksum
  /-- EXTRACT (R185) -/
  | extract
  /-- RUN v (R210): V = w[8] -/
  | run (v : Bool)
  /-- INIT (R216) -/
  | init
deriving DecidableEq, Repr

end Sys2Proof
end

