-- ==== Sys2Proof/WellFormed.lean ====
section
/-! DEFINITION. Which commands are legal (30_encoding.md R87, R91): every operand value but RD_TEXT's N outside 1..256. -/

namespace Sys2Proof

/-- A count of code units RD_TEXT may carry: "Only 1..256 is legal" (R87, R91). -/
def textLengthLegal (n : BitVec 9) : Bool := 1 ≤ n.toNat && n.toNat ≤ 256

/-- A legal command: one that some command word encodes. -/
def Instr.wf : Instr → Bool
  | .rdText n => textLengthLegal n
  | .ckReset => true
  | .ckUpdate _ => true
  | .seek => true
  | .rdU16 => true
  | .rdU32 => true
  | .hdrDecode => true
  | .valStruct => true
  | .ptDecode => true
  | .valCksum => true
  | .extract => true
  | .run _ => true
  | .init => true

end Sys2Proof
end

