-- ==== Sys2Proof/Decode.lean ====
section
/-! DEFINITION. The command decoder and encoder (30_encoding.md R85-R91). Total over all 2^32 words; every word that no
row accepts is rejected by name. -/

namespace Sys2Proof

/-- Why a word is no command (R91). Every one of these is an illegal word, CmdError(ILLEGAL) (R233). -/
inductive DecodeError where
  /-- the OP value is in no row of R88 -/
  | unknownOpcode (op : Byte)
  /-- an assigned OP with a nonzero reserved bit -/
  | reservedBits (w : Word32)
  /-- RD_TEXT with N = 0 or N > 256 -/
  | textLength (n : BitVec 9)
deriving DecidableEq, Repr

/-- One row of the opcode map (R88): it accepts w when (w & mask) = pattern and, for RD_TEXT, 1 <= w[24:16] <= 256. -/
structure OpRow where
  mnemonic : String
  pattern : Word32
  mask : Word32
deriving DecidableEq, Repr

/-- The opcode map (R88), in the table's order. -/
def opcodeMap : List OpRow :=
  [⟨"CK_RESET", 0x00000001#32, 0xFFFFFFFF#32⟩, ⟨"CK_UPDATE", 0x00000002#32, 0xFFFF00FF#32⟩,
   ⟨"SEEK", 0x00000010#32, 0xFFFFFFFF#32⟩, ⟨"RD_U16", 0x00000011#32, 0xFFFFFFFF#32⟩,
   ⟨"RD_U32", 0x00000012#32, 0xFFFFFFFF#32⟩, ⟨"RD_TEXT", 0x00000013#32, 0xFE00FFFF#32⟩,
   ⟨"HDR_DECODE", 0x00000020#32, 0xFFFFFFFF#32⟩, ⟨"VAL_STRUCT", 0x00000021#32, 0xFFFFFFFF#32⟩,
   ⟨"PT_DECODE", 0x00000022#32, 0xFFFFFFFF#32⟩, ⟨"VAL_CKSUM", 0x00000023#32, 0xFFFFFFFF#32⟩,
   ⟨"EXTRACT", 0x00000024#32, 0xFFFFFFFF#32⟩, ⟨"RUN", 0x00000030#32, 0xFFFFFEFF#32⟩,
   ⟨"INIT", 0x0000003F#32, 0xFFFFFFFF#32⟩]

/-- The match/mask test of a row: (w & mask) = match (R88). -/
def OpRow.accepts (r : OpRow) (w : Word32) : Bool := (w &&& r.mask) = r.pattern

/-- OP = w[7:0] (R85). -/
def opField (w : Word32) : Byte := w.extractLsb' 0 8

/-- BYTE = w[15:8] (R87). -/
def byteField (w : Word32) : Byte := w.extractLsb' 8 8

/-- N = w[24:16] (R87). -/
def textField (w : Word32) : BitVec 9 := w.extractLsb' 16 9

/-- V = w[8] (R87). -/
def verifyField (w : Word32) : Bool := w.getLsbD 8

/-- The operation codes R88 assigns. -/
def opAssigned (op : Byte) : Bool := opcodeMap.any (fun r => r.pattern.extractLsb' 0 8 = op)

/-- decode (R89): the row that accepts w, with its fields, or the reason why none does. -/
def decode (w : Word32) : Except DecodeError Instr :=
  if w = 0x00000001#32 then .ok .ckReset
  else if (w &&& 0xFFFF00FF#32) = 0x00000002#32 then .ok (.ckUpdate (byteField w))
  else if w = 0x00000010#32 then .ok .seek
  else if w = 0x00000011#32 then .ok .rdU16
  else if w = 0x00000012#32 then .ok .rdU32
  else if (w &&& 0xFE00FFFF#32) = 0x00000013#32 then
    if textLengthLegal (textField w) then .ok (.rdText (textField w)) else .error (.textLength (textField w))
  else if w = 0x00000020#32 then .ok .hdrDecode
  else if w = 0x00000021#32 then .ok .valStruct
  else if w = 0x00000022#32 then .ok .ptDecode
  else if w = 0x00000023#32 then .ok .valCksum
  else if w = 0x00000024#32 then .ok .extract
  else if (w &&& 0xFFFFFEFF#32) = 0x00000030#32 then .ok (.run (verifyField w))
  else if w = 0x0000003F#32 then .ok .init
  else if opAssigned (opField w) then .error (.reservedBits w)
  else .error (.unknownOpcode (opField w))

/-- The command word of a command, from the formats of R86: OP in bits 7:0, the operand in its field, every reserved
bit zero. -/
def encode : Instr → Word32
  | .ckReset => 0x00000001#32
  | .ckUpdate b => 0x00000002#32 ||| (b.zeroExtend 32 <<< 8)
  | .seek => 0x00000010#32
  | .rdU16 => 0x00000011#32
  | .rdU32 => 0x00000012#32
  | .rdText n => 0x00000013#32 ||| (n.zeroExtend 32 <<< 16)
  | .hdrDecode => 0x00000020#32
  | .valStruct => 0x00000021#32
  | .ptDecode => 0x00000022#32
  | .valCksum => 0x00000023#32
  | .extract => 0x00000024#32
  | .run v => if v then 0x00000130#32 else 0x00000030#32
  | .init => 0x0000003F#32

/-- The command word made of the low `nbits` bits of w; a command is one 32-bit word (R85), so no bit lies above. -/
def tableWord (nbits w : Nat) : Word32 := BitVec.ofNat 32 (w % 2 ^ nbits)

/-- The command the decoder reads from an instruction of spec/opcode_table.json given as a number. -/
def decodeTableWord (nbits w : Nat) : Option Instr := (decode (tableWord nbits w)).toOption

end Sys2Proof
end

