-- ==== Sys2Proof/Config.lean ====
section
/-! DEFINITION. What is fixed for one PACX instance: the format's constants (00_scope.md R7), the open parameters
(R9-R12) and the free values. An `opaque` constant has no body: no proof can learn its value. -/

namespace Sys2Proof

/-- HDR_SIZE: bytes of the FileHeader (R7). -/
abbrev Config.hdrSize : Nat := 2124

/-- PD_SIZE: bytes of one PartitionDescriptor (R7). -/
abbrev Config.pdSize : Nat := 2580

/-- CRC1_LEN: bytes the first checksum covers (R7). -/
abbrev Config.crc1Len : Nat := 2120

/-- MAGIC (R7). -/
abbrev Config.magic : Word32 := 0xFFFAFFFA#32

/-- VERSION_LIT, the text `BP_R1.0.0` as code units (R7, R18). -/
abbrev Config.versionLit : List CodeUnit :=
  [0x0042#16, 0x0050#16, 0x005F#16, 0x0052#16, 0x0031#16, 0x002E#16, 0x0030#16, 0x002E#16, 0x0030#16]

/-- CK_SEED, an open parameter (R11, R130): the spec forbids guessing it. Log entry 6. -/
opaque Config.ckSeed : BitVec 16

/-- CK_STEP, an open parameter: a total function of state and byte (R11, R130). Log entry 6. -/
opaque Config.ckStep : BitVec 16 → Byte → BitVec 16

/-- The XCHUNK of this instance, an open positive integer (R9). State holds the value in force. Log entry 7. -/
opaque Config.xchunk : ℕ+

/-- The CCHUNK of this instance, an open positive integer (R10). State holds the value in force. Log entry 7. -/
opaque Config.cchunk : ℕ+

/-- The predicate PAD of R12, as plain data: every unit up to a bound (the default's shape), or any finite list of
units. Every predicate on 16-bit units is one of the second kind. Log entry 8. -/
inductive PadRule where
  /-- PAD(u) = (u <= last) -/
  | upTo (last : CodeUnit)
  /-- PAD(u) = (u is one of these) -/
  | units (us : List CodeUnit)
deriving DecidableEq, Repr

/-- The spec's default, PAD(u) = (u <= 0x0020) (R12, D9). -/
abbrev Config.padDefault : PadRule := .upTo 0x0020#16

/-- The free value of the n-th read of a register that is unspecified while BUSY = 1 (R47, U1). Log entry 9. -/
opaque Config.busyRead : Nat → Word32

/-- The free content of a destination that was open when hardware reset was asserted (U6). Log entry 13. -/
opaque Config.destAfterReset : Nat → List Byte

end Sys2Proof
end

