-- ==== Sys2Proof/Machine/State.lean ====
section
/-! DEFINITION. The state of PACX and of the host ports it sees (spec 10_state.md, 20_memory.md), as plain data, with the
reasons a step can stop and the state after reset. INVENTORY.md lists every field with the rule that names it. -/

namespace Sys2Proof.Machine

/-- PHASE (R23). Values 9 to 15 of the 4-bit register are never held, so they have no constructor. -/
inductive Phase where
  /-- 0: no command in flight -/
  | idle
  /-- 1: HDEC is executing -/
  | hdr
  /-- 2: the structural check is executing -/
  | struct
  /-- 3: IVAL is folding region 1 -/
  | ck1
  /-- 4: IVAL is folding region 2 -/
  | ck2
  /-- 5: PDEC is executing -/
  | table
  /-- 6: PXTR is executing -/
  | extract
  /-- 7: a primitive command is executing -/
  | prim
  /-- 8: an error is latched -/
  | failed
deriving DecidableEq, Repr

/-- ERR_KIND (R28, R226). -/
inductive ErrKind where
  /-- 0: no error -/
  | none
  /-- 1 -/
  | format
  /-- 2 -/
  | checksum
  /-- 3 -/
  | io
  /-- 4 -/
  | path
  /-- 5 -/
  | cmd
deriving DecidableEq, Repr

/-- ERR_CAUSE (R226); `none` is the reset value 0. "Every other code value is never held." -/
inductive Cause where
  | none
  | shortHeader
  | sizeMismatch
  | badVersion
  | badReclen
  | crc1Mismatch
  | crc2Mismatch
  | srcShort
  | dstOpen
  | dstWrite
  | dirCollision
  | illegal
  | sequence
deriving DecidableEq, Repr

/-- What a `raise` carries into the error registers (R226, R236); a field the cause does not give is 0 (R227). -/
structure ErrInfo where
  cause : Cause
  idx : Word32
  exp : Word64
  got : Word64
  off : Word64
deriving DecidableEq, Repr

/-- The milestone flags (R25). -/
inductive Milestone where
  | hv
  | sv
  | tv
  | cv
  | c1
  | xd
deriving DecidableEq, Repr

/-- Where in its pseudocode the command in flight stands: the micro-step it performs next, with the loop index, source
offset, count and bytes that step needs (the internal continuation of R39). Offsets and counts are unbounded (R14). -/
inductive Stage where
  /-- the one micro-step of CK_RESET -/
  | ckReset
  /-- the one micro-step of CK_UPDATE b -/
  | ckUpdate (b : Byte)
  /-- the one micro-step of SEEK -/
  | seek
  /-- the read of RD_U16 -/
  | rdU16
  /-- the read of RD_U32 -/
  | rdU32
  /-- the read of RD_TEXT -/
  | rdText (n : BitVec 9)
  /-- HDR_BODY after its flag updates (R146) -/
  | hdr
  /-- STRUCT_BODY after its flag updates (R165) -/
  | struct
  /-- region 1 of CK_BODY, folded up to offset p (R170) -/
  | fold1 (p : Nat)
  /-- region 2 of CK_BODY, folded up to offset p (R170) -/
  | fold2 (p : Nat)
  /-- PT_BODY before record i's length word (R150) -/
  | tabLen (i : Nat)
  /-- PT_BODY before record i's body, its length word read and gated (R150, R153) -/
  | tabBody (i : Nat) (lenWord : List Byte)
  /-- X_BODY before partition i (R185) -/
  | part (i : Nat)
  /-- X_BODY, partition i open, before the read at p with rem of size bytes to move; the close when rem = 0 -/
  | chunkRead (i p rem size : Nat)
  /-- X_BODY, a chunk read and not yet written -/
  | chunkWrite (i p rem size : Nat) (chunk : List Byte)
  /-- X_BODY, a chunk written and its progress not yet reported -/
  | progress (i p rem size : Nat)
  /-- the error entry of R236 -/
  | raising (e : ErrInfo)
deriving DecidableEq, Repr

/-- The command in flight with its operands, RUN's V among them, and where it stands (R39). -/
structure Flight where
  cmd : Instr
  stage : Stage
deriving DecidableEq, Repr

/-- An output-port transaction, as the observation trace EV records it (R68). -/
inductive Event where
  | dstOpen (name : List CodeUnit)
  | dstWrite (bytes : List Byte)
  | dstClose
  | progress (idx : Word32) (pct : BitVec 7)
  | srcRelease
deriving DecidableEq, Repr

/-- The host's answer to DstOpen, a draw of the host (R68, U4). -/
inductive OpenAnswer where
  | ok
  | ioerr
  | path
deriving DecidableEq, Repr

/-- The host's answer to DstWrite, a draw of the host (R68, U4). -/
inductive WriteAnswer where
  | ok
  | ioerr
deriving DecidableEq, Repr

/-- A destination stream on the host's side: what the host owes for the name (R69). -/
structure Dest where
  name : List CodeUnit
  bytes : List Byte
deriving DecidableEq, Repr

/-- One thing the host does between two micro-steps (R46, R70, R205, R250), in the order it does them. Log entry 1. -/
inductive HostAct where
  /-- an aligned or misaligned 32-bit write at a byte offset -/
  | write (off : Nat) (v : Word32)
  /-- a 32-bit read at a byte offset -/
  | read (off : Nat)
  /-- an access of fewer than 32 bits (R46, U9) -/
  | narrow (off : Nat)
  /-- the host makes no access while the engine performs one micro-step -/
  | tick
  /-- the pseudo-instruction WAIT (R92): poll STATUS until BUSY reads 0 -/
  | wait
  /-- present a container on the source port: its nonzero bytes and `src_len` (R31, R63, R253) -/
  | present (cells : List Host.Cell) (len : Word64)
  /-- supply one more answer for DstOpen -/
  | answerOpen (a : OpenAnswer)
  /-- supply one more answer for DstWrite -/
  | answerWrite (a : WriteAnswer)
  /-- assert the input `rst` (R250) -/
  | reset
deriving DecidableEq, Repr

/-- The source space (R60 (1)) as (offset, byte) pairs: offsets strictly rising, no entry 0x00, and an unlisted offset
reads 0x00. So every byte sequence has exactly one form. Log entry 10. -/
abbrev Memory := List Host.Cell

/-- Everything the spec gives the machine, the host's side of its ports, and the model's own fields (named so). -/
structure State where
  /-- PHASE (R23) -/
  phase : Phase
  /-- the internal continuation (R39): none exactly while BUSY = 0 -/
  flight : Option Flight
  /-- a DstOpen or DstWrite stands on the port and the host has not answered it (U15) -/
  awaiting : Bool
  /-- INIT was written while a transaction stood on the port: it is performed after the answer (R216, U15) -/
  initPending : Bool
  /-- HV (R25) -/
  hv : Bool
  /-- SV (R25) -/
  sv : Bool
  /-- TV (R25) -/
  tv : Bool
  /-- CV (R25) -/
  cv : Bool
  /-- C1 (R25) -/
  c1 : Bool
  /-- XD (R25) -/
  xd : Bool
  /-- OVR (R26) -/
  ovr : Bool
  /-- HELD (R27) -/
  held : Bool
  /-- DOPEN (R27) -/
  dopen : Bool
  /-- ERR_KIND (R28) -/
  errKind : ErrKind
  /-- ERR_CAUSE (R28) -/
  errCause : Cause
  /-- ERR_IDX (R28) -/
  errIdx : Word32
  /-- ERR_EXP (R28) -/
  errExp : Word64
  /-- ERR_GOT (R28) -/
  errGot : Word64
  /-- ERR_OFF (R28) -/
  errOff : Word64
  /-- ARG (R29) -/
  arg : Word64
  /-- CUR (R30) -/
  cur : Word64
  /-- RESULT (R32) -/
  result : Word32
  /-- CK (R33) -/
  ck : BitVec 16
  /-- TBUF, 256 code units (R34) -/
  tbuf : List CodeUnit
  /-- TLEN (R34) -/
  tlen : BitVec 9
  /-- PIDX (R35) -/
  pidx : Word32
  /-- PROG (R35) -/
  prog : BitVec 7
  /-- PT_SEL (R36) -/
  ptSel : Word32
  /-- HIMG, 2124 bytes (R37) -/
  himg : List Byte
  /-- PT, the stored descriptor images of 2580 bytes each (R43) -/
  pt : List (List Byte)
  /-- SRC, the host's input on the source port (R60, R63) -/
  src : Memory
  /-- the input `src_len`, which LEN mirrors (R31) -/
  len : Word64
  /-- the answers the host will give to the coming DstOpen transactions (R68) -/
  openAnswers : List OpenAnswer
  /-- the answers the host will give to the coming DstWrite transactions (R68) -/
  writeAnswers : List WriteAnswer
  /-- what the host does next (the model's own; R20, R70). Log entry 1 -/
  inbox : List HostAct
  /-- EV, the observation trace, oldest event first (R68) -/
  ev : List Event
  /-- the values host reads have returned, oldest first (the model's own) -/
  reads : List Word32
  /-- the destination streams (R60 (2), R69), the one opened last at the head; one entry per name -/
  dests : List Dest
  /-- XCHUNK of this instance (R9) -/
  xchunk : ℕ+
  /-- CCHUNK of this instance (R10) -/
  cchunk : ℕ+
  /-- PAD of this instance (R12) -/
  pad : PadRule
  /-- how many free values have been drawn (the model's own; R47, U1, U6) -/
  draws : Nat
deriving DecidableEq, Repr

/-- Why the machine stops with a fault. -/
inductive Fault where
  /-- `engineStep` raises it when PHASE says a command is in flight and there is none, which no run from reset reaches
  (R24, R39). Safe: the model stops where the spec gives no state. Log entry 16. -/
  | lostCommand
deriving DecidableEq, Repr

/-- Why the model has no transition. -/
inductive Refusal where
  /-- exec raises it for an instruction that has no meaning yet. Safe. -/
  | notModelled (mnemonic : String)
  /-- `hostStep` raises it for a host access at an offset that is no multiple of 4: outside the interface (R46, U9).
  Safe. -/
  | misalignedAccess (off : Nat)
  /-- `hostStep` raises it for a host access narrower than 32 bits: outside the interface (R46, U9). Safe. -/
  | narrowAccess (off : Nat)
  /-- `hostStep` raises it for a host that changes the source while PACX holds it: "the model has no host transition"
  (R63, R257, U7). Safe. -/
  | sourceHeld
deriving DecidableEq, Repr

/-- n bytes 0x00: the reset value of HIMG (R48). -/
def zeroBytes (n : Nat) : List Byte := List.replicate n 0#8

/-- n code units 0x0000: the reset value of TBUF (R48), and what a text decode leaves after its units (R34). -/
def zeroUnits (n : Nat) : List CodeUnit := List.replicate n 0#16

/-- The machine right after hardware reset (R48, R250), EV empty. SRC, L and the ports are host inputs that reset does
not set (R252): here no container is presented yet and the host has done nothing (log entry 10). -/
def State.reset : State where
  phase := .idle
  flight := none
  awaiting := false
  initPending := false
  hv := false
  sv := false
  tv := false
  cv := false
  c1 := false
  xd := false
  ovr := false
  held := false
  dopen := false
  errKind := .none
  errCause := .none
  errIdx := 0#32
  errExp := 0#64
  errGot := 0#64
  errOff := 0#64
  arg := 0#64
  cur := 0#64
  result := 0#32
  ck := Config.ckSeed
  tbuf := zeroUnits 256
  tlen := 0#9
  pidx := 0#32
  prog := 0#7
  ptSel := 0#32
  himg := zeroBytes 2124
  pt := []
  src := []
  len := 0#64
  openAnswers := []
  writeAnswers := []
  inbox := []
  ev := []
  reads := []
  dests := []
  xchunk := Config.xchunk
  cchunk := Config.cchunk
  pad := Config.padDefault
  draws := 0

end Sys2Proof.Machine
end

