-- ==== Sys2Proof/Machine/Flags.lean ====
section
/-! DEFINITION. Every status bit and code the host can see: PHASE, BUSY, STATUS, the ERR word, the milestone flags and the
preconditions built on them (10_state.md R23-R28, R38, R41; 45_control.md R205, R206; 60_exceptions.md R226). -/

namespace Sys2Proof.Machine

/-- The 4-bit code of PHASE (R23). -/
def Phase.code : Phase → BitVec 4
  | .idle => 0#4
  | .hdr => 1#4
  | .struct => 2#4
  | .ck1 => 3#4
  | .ck2 => 4#4
  | .table => 5#4
  | .extract => 6#4
  | .prim => 7#4
  | .failed => 8#4

/-- BUSY of a phase: neither IDLE nor FAILED (R24). -/
def Phase.busy : Phase → Bool
  | .idle => false
  | .failed => false
  | .hdr => true
  | .struct => true
  | .ck1 => true
  | .ck2 => true
  | .table => true
  | .extract => true
  | .prim => true

/-- BUSY (R24). -/
def State.busy (s : State) : Bool := s.phase.busy

/-- The 4-bit code of ERR_KIND (R28). -/
def ErrKind.code : ErrKind → BitVec 4
  | .none => 0#4
  | .format => 1#4
  | .checksum => 2#4
  | .io => 3#4
  | .path => 4#4
  | .cmd => 5#4

/-- The 8-bit code of ERR_CAUSE (R226). -/
def Cause.code : Cause → BitVec 8
  | .none => 0x00#8
  | .shortHeader => 0x01#8
  | .sizeMismatch => 0x02#8
  | .badVersion => 0x03#8
  | .badReclen => 0x04#8
  | .crc1Mismatch => 0x11#8
  | .crc2Mismatch => 0x12#8
  | .srcShort => 0x21#8
  | .dstOpen => 0x22#8
  | .dstWrite => 0x23#8
  | .dirCollision => 0x31#8
  | .illegal => 0x41#8
  | .sequence => 0x42#8

/-- The kind of each cause (R226). -/
def Cause.kind : Cause → ErrKind
  | .none => .none
  | .shortHeader => .format
  | .sizeMismatch => .format
  | .badVersion => .format
  | .badReclen => .format
  | .crc1Mismatch => .checksum
  | .crc2Mismatch => .checksum
  | .srcShort => .io
  | .dstOpen => .io
  | .dstWrite => .io
  | .dirCollision => .path
  | .illegal => .cmd
  | .sequence => .cmd

/-- A flag as bit k of a 32-bit word. -/
def flagBit (b : Bool) (k : Nat) : Word32 := if b then 1#32 <<< k else 0#32

/-- STATUS (R41). -/
def statusWord (s : State) : Word32 :=
  flagBit s.busy 0 ||| flagBit s.xd 1 ||| flagBit (s.errKind ≠ .none) 2 ||| flagBit s.ovr 3
    ||| flagBit s.hv 4 ||| flagBit s.sv 5 ||| flagBit s.tv 6 ||| flagBit s.cv 7 ||| flagBit s.c1 8
    ||| flagBit s.held 9 ||| flagBit s.dopen 10 ||| (s.phase.code.zeroExtend 32 <<< 12)

/-- The word at ERR: ERR_KIND in bits 3:0, ERR_CAUSE in bits 15:8 (R40, R227). -/
def errWord (s : State) : Word32 := s.errKind.code.zeroExtend 32 ||| (s.errCause.code.zeroExtend 32 <<< 8)

/-- Whether a milestone flag is 1 (R25). -/
def Milestone.isSet (m : Milestone) (s : State) : Bool :=
  match m with
  | .hv => s.hv
  | .sv => s.sv
  | .tv => s.tv
  | .cv => s.cv
  | .c1 => s.c1
  | .xd => s.xd

/-- The STATUS bit of a milestone (R41). -/
def Milestone.bit : Milestone → Nat
  | .hv => 4
  | .sv => 5
  | .tv => 6
  | .cv => 7
  | .c1 => 8
  | .xd => 1

/-- MISSING(c): the STATUS mask of a milestone, 0x10 for HV, 0x20 for SV, 0x40 for TV (R205). -/
def Milestone.mask (m : Milestone) : Word64 := 1#64 <<< m.bit

/-- The milestone precondition PRE of each command (R206): the flag that must be 1 for it to start in IDLE. -/
def precondition : Instr → Option Milestone
  | .ckReset => none
  | .ckUpdate _ => none
  | .seek => none
  | .rdU16 => none
  | .rdU32 => none
  | .rdText _ => none
  | .hdrDecode => none
  | .valStruct => some .hv
  | .valCksum => some .sv
  | .ptDecode => some .sv
  | .extract => some .tv
  | .run _ => none
  | .init => none

/-- The milestone a command lacks, if it lacks one (R205). -/
def missing (need : Option Milestone) (s : State) : Option Milestone :=
  match need with
  | none => none
  | some m => if m.isSet s then none else some m

/-- All six milestones cleared: the start of HDR_DECODE and RUN (R38). -/
def clearMilestones (s : State) : State :=
  { s with hv := false, sv := false, tv := false, cv := false, c1 := false, xd := false }

end Sys2Proof.Machine
end

