-- ==== Sys2Proof/Machine/Operands.lean ====
section
/-! DEFINITION. The decoding primitives of 00_scope.md R16 over a byte sequence: little-endian integers, code units and
trimming. No value is sign-extended (R14). -/

namespace Sys2Proof.Machine

/-- B[o]; an index past the end of B reads 0, which no rule of the spec does. -/
def byteOf (B : List Byte) (o : Nat) : Byte := B.getD o 0#8

/-- LE16(B, o) (R16). -/
def le16 (B : List Byte) (o : Nat) : BitVec 16 :=
  (byteOf B o).zeroExtend 16 ||| ((byteOf B (o + 1)).zeroExtend 16 <<< 8)

/-- LE32(B, o) (R16). -/
def le32 (B : List Byte) (o : Nat) : Word32 :=
  (byteOf B o).zeroExtend 32 ||| ((byteOf B (o + 1)).zeroExtend 32 <<< 8)
    ||| ((byteOf B (o + 2)).zeroExtend 32 <<< 16) ||| ((byteOf B (o + 3)).zeroExtend 32 <<< 24)

/-- UNITS(B, o, N): N code units from offset o (R16). -/
def unitsOf (B : List Byte) (o : Nat) : Nat → List CodeUnit
  | 0 => []
  | n + 1 => le16 B o :: unitsOf B (o + 2) n

/-- PAD(u) under a rule (R12). -/
def padUnit (p : PadRule) (u : CodeUnit) : Bool :=
  match p with
  | .upTo last => u.toNat ≤ last.toNat
  | .units us => us.contains u

/-- TRIM(U): U less its maximal run of trailing PAD units (R16). -/
def trimUnits (p : PadRule) (U : List CodeUnit) : List CodeUnit := (U.reverse.dropWhile (padUnit p)).reverse

/-- TEXT(B, o, N) (R16). -/
def textOf (p : PadRule) (B : List Byte) (o n : Nat) : List CodeUnit := trimUnits p (unitsOf B o n)

/-- The two bytes of a code unit or 16-bit integer, low byte first (R64). -/
def bytes16 (v : BitVec 16) : List Byte := [v.extractLsb' 0 8, v.extractLsb' 8 8]

/-- The four bytes of a 32-bit integer, low byte first (R64). -/
def bytes32 (v : Word32) : List Byte :=
  [v.extractLsb' 0 8, v.extractLsb' 8 8, v.extractLsb' 16 8, v.extractLsb' 24 8]

end Sys2Proof.Machine
end

