-- ==== Sys2Proof/Machine/Records.lean ====
section
/-! DEFINITION. The two record layouts of the container (30_encoding.md R93-R102): the field lists, the offsets that
packing them gives, the views the rules use, and the record codec of the round trip (R102). -/

namespace Sys2Proof.Machine

/-- The shape of a record field (R94, R98): N code units, a u32, a u16, or a block of N u32 words. -/
inductive FieldShape where
  | text (n : Nat)
  | u32
  | u16
  | words (n : Nat)
deriving DecidableEq, Repr

/-- The undecoded value of a field: the raw code units of a text field, integers, a reserved block verbatim (R102). -/
inductive FieldValue where
  | text (us : List CodeUnit)
  | u32 (v : Word32)
  | u16 (v : BitVec 16)
  | words (vs : List Word32)
deriving DecidableEq, Repr

/-- The bytes a field of this shape takes (R93). -/
def fieldBytes : FieldShape → Nat
  | .text n => 2 * n
  | .u32 => 4
  | .u16 => 2
  | .words n => 4 * n

/-- The FileHeader's fields in order (R94, R96). -/
def headerLayout : List (String × FieldShape) :=
  [("version", .text 24), ("fileSize", .u32), ("productName", .text 256), ("firmwareName", .text 256),
   ("partitionCount", .u32), ("partitionsListStart", .u32), ("mode", .u32), ("flashType", .u32),
   ("nandStrategy", .u32), ("nvBackup", .u32), ("nandPageType", .u32), ("productAlias", .text 100),
   ("omaDm0", .u32), ("omaDm1", .u32), ("omaDm2", .u32), ("reserved", .words 200), ("magic", .u32),
   ("crc1", .u16), ("crc2", .u16)]

/-- The PartitionDescriptor's fields in order (R98, R99); the four fields whose width the source does not give are u32
(D8). -/
def descriptorLayout : List (String × FieldShape) :=
  [("length", .u32), ("partitionName", .text 256), ("fileName", .text 256), ("reservedFileName", .text 256),
   ("partitionSize", .u32), ("fileFlag", .u32), ("checkFlag", .u32), ("partitionAddrInPac", .u32),
   ("omitFlag", .u32), ("addrNum", .u32), ("addr", .words 5), ("reserved", .words 249)]

/-- The offset of each field when they are packed from `o` with no padding (R93). -/
def packedOffsets (o : Nat) : List (String × FieldShape) → List (String × Nat)
  | [] => []
  | (name, sh) :: rest => (name, o) :: packedOffsets (o + fieldBytes sh) rest

/-- N little-endian u32 words from offset o. -/
def wordsOf (B : List Byte) (o : Nat) : Nat → List Word32
  | 0 => []
  | n + 1 => le32 B o :: wordsOf B (o + 4) n

/-- One field decoded at offset o. -/
def readField (sh : FieldShape) (B : List Byte) (o : Nat) : FieldValue :=
  match sh with
  | .text n => .text (unitsOf B o n)
  | .u32 => .u32 (le32 B o)
  | .u16 => .u16 (le16 B o)
  | .words n => .words (wordsOf B o n)

/-- One field written back. -/
def writeField : FieldValue → List Byte
  | .text us => us.flatMap bytes16
  | .u32 v => bytes32 v
  | .u16 v => bytes16 v
  | .words vs => vs.flatMap bytes32

/-- A record decoded field by field from offset o. -/
def decodeRecord (o : Nat) : List (String × FieldShape) → List Byte → List FieldValue
  | [], _ => []
  | (_, sh) :: rest, B => readField sh B o :: decodeRecord (o + fieldBytes sh) rest B

/-- A record written back in field order (R102). -/
def encodeRecord (vs : List FieldValue) : List Byte := vs.flatMap writeField

/-- A text value stored in its slot: the value, then the padding units, each low byte first (R101). -/
def storeText (V padding : List CodeUnit) : List Byte := (V ++ padding).flatMap bytes16

/-- HDR.fileSize (R96). -/
def hdrFileSize (img : List Byte) : Word32 := le32 img 48
/-- HDR.partitionCount (R96). -/
def hdrPartitionCount (img : List Byte) : Word32 := le32 img 1076
/-- HDR.partitionsListStart (R96). -/
def hdrPartitionsListStart (img : List Byte) : Word32 := le32 img 1080
/-- HDR.magic (R96). -/
def hdrMagic (img : List Byte) : Word32 := le32 img 2116
/-- HDR.crc1 (R96). -/
def hdrCrc1 (img : List Byte) : BitVec 16 := le16 img 2120
/-- HDR.crc2 (R96). -/
def hdrCrc2 (img : List Byte) : BitVec 16 := le16 img 2122
/-- The 24 raw units of HDR.version (R96). -/
def hdrVersionUnits (img : List Byte) : List CodeUnit := unitsOf img 0 24

/-- PD.length (R99). -/
def pdLength (D : List Byte) : Word32 := le32 D 0
/-- The 256 raw units of PD.fileName (R99). -/
def pdFileNameUnits (D : List Byte) : List CodeUnit := unitsOf D 516 256
/-- PD.partitionSize (R99). -/
def pdPartitionSize (D : List Byte) : Word32 := le32 D 1540
/-- PD.partitionAddrInPac (R99). -/
def pdPartitionAddr (D : List Byte) : Word32 := le32 D 1552

end Sys2Proof.Machine
end

