-- ==== Sys2Proof/Machine/Ops.lean ====
section
/-! DEFINITION. The shared operations: the source space, the port transactions, ending a command, taking an error
(60_exceptions.md R236), and the two ways out of it, INIT's state change (R216) and hardware reset (R250). -/

namespace Sys2Proof.Machine

/-- The byte of the source at an offset; an unlisted offset reads 0x00 (log entry 10). -/
def Memory.byteAt : Memory → Nat → Byte
  | [], _ => 0#8
  | (k, b) :: m, a => if k = a then b else Memory.byteAt m a

/-- The source with one byte changed, in canonical form: a host operation, since PACX never writes the source (R17). -/
def Memory.set : Memory → Nat → Byte → Memory
  | [], a, v => if v = 0#8 then [] else [(a, v)]
  | (k, b) :: m, a, v =>
    if a < k then (if v = 0#8 then (k, b) :: m else (a, v) :: (k, b) :: m)
    else if a = k then (if v = 0#8 then m else (a, v) :: m)
    else (k, b) :: Memory.set m a v

/-- The canonical source of length `len` that a list of cells gives; a cell at or past `len` lies outside (R60). -/
def Memory.ofCells (cells : List Host.Cell) (len : Nat) : Memory :=
  cells.foldl (fun m c => if c.1 < len then Memory.set m c.1 c.2 else m) []

/-- SRC[a .. a+n) (R61). -/
def Memory.read (m : Memory) (a n : Nat) : List Byte := (List.range n).map (fun i => m.byteAt (a + i))

/-- Every offset of m is at least lo, offsets strictly rise, and no entry is 0x00. -/
def Memory.wfFrom : Nat → Memory → Bool
  | _, [] => true
  | lo, (k, b) :: m => decide (lo ≤ k) && decide (b ≠ 0#8) && Memory.wfFrom (k + 1) m

/-- The canonical form of the source. -/
def Memory.wf (m : Memory) : Bool := Memory.wfFrom 0 m

/-- MemRead(addr, n) (R61): the bytes and the state with HELD set, or the SRC_SHORT error with its info, on unbounded
integers. `idx` is ERR_IDX, the record or partition index where the caller has one (R226). -/
def memRead (idx : Word32) (addr n : Nat) (s : State) : Except ErrInfo (List Byte × State) :=
  if s.len.toNat < addr + n then
    .error ⟨.srcShort, idx, BitVec.ofNat 64 n, BitVec.ofNat 64 (s.len.toNat - addr), BitVec.ofNat 64 addr⟩
  else .ok (s.src.read addr n, { s with held := true })

/-- A port transaction appended to EV (R68). -/
def emit (e : Event) (s : State) : State := { s with ev := s.ev ++ [e] }

/-- DstClose if a destination is open (R68). -/
def closeIfOpen (s : State) : State := if s.dopen then { emit .dstClose s with dopen := false } else s

/-- SrcRelease if the source is held (R68). -/
def releaseIfHeld (s : State) : State := if s.held then { emit .srcRelease s with held := false } else s

/-- What the host owes after DstOpen(name) answers OK: the destination is empty, whatever it held before (R69). -/
def openDest (name : List CodeUnit) (ds : List Dest) : List Dest := ⟨name, []⟩ :: ds.filter (fun d => d.name ≠ name)

/-- What the host owes after DstWrite(bytes) answers OK: the open destination ends with them (R69). -/
def appendDest (bytes : List Byte) : List Dest → List Dest
  | [] => []
  | d :: ds => { d with bytes := d.bytes ++ bytes } :: ds

/-- The destinations after hardware reset: the content of one that was open is anyone's guess (U6). -/
def abandonDest (dopen : Bool) (unknown : List Byte) : List Dest → List Dest
  | [] => []
  | d :: ds => if dopen then { d with bytes := unknown } :: ds else d :: ds

/-- The command in flight stands at another micro-step. -/
def goTo (cmd : Instr) (st : Stage) (s : State) : State := { s with flight := some ⟨cmd, st⟩ }

/-- A stage of a command begins: PHASE and the first micro-step (R23, R145). -/
def beginStage (ph : Phase) (cmd : Instr) (st : Stage) (s : State) : State :=
  { s with phase := ph, flight := some ⟨cmd, st⟩ }

/-- The command ends without error: PHASE returns to IDLE (R110, R145). -/
def complete (s : State) : State := { s with phase := .idle, flight := none }

/-- `raise` inside a command (R17, R225): no further statement of it runs; the error entry's micro-steps follow. -/
def raise (cmd : Instr) (e : ErrInfo) (s : State) : State := goTo cmd (.raising e) s

/-- The last micro-step of the error entry: the six error registers written together and PHASE <- FAILED (R227,
R236). -/
def latchError (e : ErrInfo) (s : State) : State :=
  { s with errKind := e.cause.kind, errCause := e.cause, errIdx := e.idx, errExp := e.exp, errGot := e.got,
           errOff := e.off, phase := .failed, flight := none }

/-- ERROR_ENTRY (R236), all of it: DstClose if DOPEN, SrcRelease if HELD, then the latch. -/
def takeError (e : ErrInfo) (s : State) : State := latchError e (releaseIfHeld (closeIfOpen s))

/-- ERROR_ENTRY one micro-step at a time: each carries at most one transaction (R70, R236). -/
def errorStep (e : ErrInfo) (s : State) : State :=
  if s.dopen then closeIfOpen s else if s.held then releaseIfHeld s else latchError e s

/-- Every register and state element of R48 at its reset value. SRC, L, the parameters (R252), EV, and what is the
host's own (its answers, its coming accesses, the values it has read, its destinations) stay. -/
def resetRegisters (s : State) : State :=
  { State.reset with
    src := s.src, len := s.len, openAnswers := s.openAnswers, writeAnswers := s.writeAnswers, inbox := s.inbox,
    ev := s.ev, reads := s.reads, dests := s.dests, xchunk := s.xchunk, cchunk := s.cchunk, pad := s.pad,
    draws := s.draws }

/-- INIT's effect (R216), which is also the way back from an error (R237): the command in flight dropped, held handles
closed and released, everything else at its reset value, EV kept. -/
def performInit (s : State) : State := resetRegisters (releaseIfHeld (closeIfOpen s))

/-- Hardware reset (R250): no transaction, EV emptied; a destination that was open holds a free value (U6). -/
def hardwareReset (s : State) : State :=
  { resetRegisters s with
    ev := [], dests := abandonDest s.dopen (Config.destAfterReset s.draws) s.dests, draws := s.draws + 1 }

/-- A text decode into TBUF and TLEN (R34): the raw units, zeroes after them, and the trimmed length. -/
def setText (U : List CodeUnit) (s : State) : State :=
  { s with tbuf := U ++ zeroUnits (256 - U.length),
           tlen := BitVec.ofNat 9 (trimUnits s.pad U).length }

/-- x[CUR] <- o, for an offset computed on unbounded integers (R30, R14). -/
def setCursor (o : Nat) (s : State) : State := { s with cur := BitVec.ofNat 64 o }

/-- FOLD(c, B) (R134). -/
def fold (c : BitVec 16) (B : List Byte) : BitVec 16 := B.foldl Config.ckStep c

/-- CKSUM(B) (R134). -/
def cksum (B : List Byte) : BitVec 16 := fold Config.ckSeed B

/-- The progress percentage 100 - floor(100 * REM / S), computed exactly (R189). -/
def progressPct (rem size : Nat) : Nat := 100 - 100 * rem / size

/-- The partition or record index as the 32-bit value ERR_IDX, PIDX and Progress carry (R28, R35, R68). -/
def indexWord (i : Nat) : Word32 := BitVec.ofNat 32 i

end Sys2Proof.Machine
end

