-- ==== Sys2Proof/Machine/Sequence.lean ====
section
/-! DEFINITION. The order of the stages: what each BODY does before its first source read (its flag updates, PHASE, the
cursor), and what follows it, the end of a single command or the next stage of RUN (45_control.md R210-R212). -/

namespace Sys2Proof.Machine

/-- Start of HDR_BODY (R146): all six milestones cleared. -/
def beginHdr (cmd : Instr) (s : State) : State := beginStage .hdr cmd .hdr (clearMilestones s)

/-- Start of STRUCT_BODY (R165). -/
def beginStruct (cmd : Instr) (s : State) : State := beginStage .struct cmd .struct { s with sv := false }

/-- Start of region 2 in CK_BODY (R170): PHASE, CK and CUR. -/
def beginRegion2 (cmd : Instr) (s : State) : State :=
  beginStage .ck2 cmd (.fold2 2124) (setCursor 2124 { s with ck := Config.ckSeed })

/-- Start of CK_BODY (R170): region 1 only when the magic is exactly 0xFFFAFFFA (R171). -/
def beginCksum (cmd : Instr) (s : State) : State :=
  if (hdrMagic s.himg).zeroExtend 64 = 0x00000000FFFAFFFA#64 then
    beginStage .ck1 cmd (.fold1 0) (setCursor 0 { s with cv := false, c1 := false, ck := Config.ckSeed })
  else beginRegion2 cmd { s with cv := false, c1 := false }

/-- Start of PT_BODY (R150): PT emptied and CUR at the table, whatever offset the header stores (R151). -/
def beginTable (cmd : Instr) (s : State) : State :=
  beginStage .table cmd (.tabLen 0)
    (setCursor (hdrPartitionsListStart s.himg).toNat { s with tv := false, pt := [] })

/-- Start of X_BODY (R185). -/
def beginExtract (cmd : Instr) (s : State) : State := beginStage .extract cmd (.part 0) { s with xd := false }

/-- After HDR_BODY: RUN goes on to STRUCT_BODY (R210). -/
def afterHdr (cmd : Instr) (s : State) : State :=
  match cmd with
  | .run _ => beginStruct cmd s
  | _ => complete s

/-- After STRUCT_BODY: RUN goes on to CK_BODY when V = 1, else to PT_BODY (R210). -/
def afterStruct (cmd : Instr) (s : State) : State :=
  match cmd with
  | .run true => beginCksum cmd s
  | .run false => beginTable cmd s
  | _ => complete s

/-- After CK_BODY: RUN goes on to PT_BODY (R210). -/
def afterCksum (cmd : Instr) (s : State) : State :=
  match cmd with
  | .run _ => beginTable cmd s
  | _ => complete s

/-- After PT_BODY: RUN goes on to X_BODY (R210), which is the last (its end is `complete`). -/
def afterTable (cmd : Instr) (s : State) : State :=
  match cmd with
  | .run _ => beginExtract cmd s
  | _ => complete s

end Sys2Proof.Machine
end

