-- ==== Sys2Proof/Machine/Bodies.lean ====
section
/-! DEFINITION. The micro-steps of every command, from its pseudocode: at most one source read or one port transaction in
each (20_memory.md R70), with the register updates that belong to it. A micro-step that needs an answer the host has not
given is `none` (U15). -/

namespace Sys2Proof.Machine

/-- CK_RESET (R131). -/
def tickCkReset (s : State) : State := complete { s with ck := Config.ckSeed }

/-- CK_UPDATE b (R132). -/
def tickCkUpdate (b : Byte) (s : State) : State := complete { s with ck := Config.ckStep s.ck b }

/-- SEEK (R111). -/
def tickSeek (s : State) : State := complete { s with cur := s.arg }

/-- RD_U16 (R112). -/
def tickRdU16 (cmd : Instr) (s : State) : State :=
  match memRead 0#32 s.cur.toNat 2 s with
  | .error e => raise cmd e s
  | .ok (B, s1) => complete (setCursor (s.cur.toNat + 2) { s1 with result := (le16 B 0).zeroExtend 32 })

/-- RD_U32 (R113). -/
def tickRdU32 (cmd : Instr) (s : State) : State :=
  match memRead 0#32 s.cur.toNat 4 s with
  | .error e => raise cmd e s
  | .ok (B, s1) => complete (setCursor (s.cur.toNat + 4) { s1 with result := le32 B 0 })

/-- RD_TEXT N (R114). -/
def tickRdText (cmd : Instr) (n : Nat) (s : State) : State :=
  match memRead 0#32 s.cur.toNat (2 * n) s with
  | .error e => raise cmd e s
  | .ok (B, s1) => complete (setCursor (s.cur.toNat + 2 * n) (setText (unitsOf B 0 n) s1))

/-- HDR_BODY's check and its one read (R146, R147). -/
def tickHdr (cmd : Instr) (s : State) : State :=
  if s.len.toNat < Config.hdrSize then
    raise cmd ⟨.shortHeader, 0#32, BitVec.ofNat 64 Config.hdrSize, s.len, 0#64⟩ s
  else
    match memRead 0#32 0 Config.hdrSize s with
    | .error e => raise cmd e s
    | .ok (B, s1) => afterHdr cmd (setCursor Config.hdrSize { s1 with himg := B, hv := true })

/-- STRUCT_BODY's two gates, size first (R165, R167). -/
def tickStruct (cmd : Instr) (s : State) : State :=
  let D : Word64 := (hdrFileSize s.himg).zeroExtend 64
  if D ≠ s.len then raise cmd ⟨.sizeMismatch, 0#32, D, s.len, 0#64⟩ s
  else
    let U := hdrVersionUnits s.himg
    if trimUnits s.pad U ≠ Config.versionLit then
      raise cmd ⟨.badVersion, 0#32, 0#64, 0#64, 0#64⟩ (setText U s)
    else afterStruct cmd { setText U s with sv := true }

/-- One piece of FOLD_REGION(a, b) at offset p (R170): at most CCHUNK bytes folded in order. -/
def foldPiece (cmd : Instr) (next : Nat → Stage) (p b : Nat) (s : State) : State :=
  let n := min (s.cchunk : Nat) (b - p)
  match memRead 0#32 p n s with
  | .error e => raise cmd e s
  | .ok (B, s1) => goTo cmd (next (p + n)) (setCursor (p + n) { s1 with ck := fold s.ck B })

/-- Region 1 of CK_BODY: a piece of [0, 2120), or the comparison with crc1 (R170, R173). -/
def tickFold1 (cmd : Instr) (p : Nat) (s : State) : State :=
  if p < Config.crc1Len then foldPiece cmd .fold1 p Config.crc1Len s
  else if s.ck.zeroExtend 64 ≠ (hdrCrc1 s.himg).zeroExtend 64 then
    raise cmd ⟨.crc1Mismatch, 0#32, (hdrCrc1 s.himg).zeroExtend 64, s.ck.zeroExtend 64, 0#64⟩ s
  else beginRegion2 cmd { s with c1 := true }

/-- Region 2 of CK_BODY: a piece of [2124, L), or the comparison with crc2 (R170, R172). -/
def tickFold2 (cmd : Instr) (p : Nat) (s : State) : State :=
  if p < s.len.toNat then foldPiece cmd .fold2 p s.len.toNat s
  else if s.ck.zeroExtend 64 ≠ (hdrCrc2 s.himg).zeroExtend 64 then
    raise cmd ⟨.crc2Mismatch, 0#32, (hdrCrc2 s.himg).zeroExtend 64, s.ck.zeroExtend 64, 0#64⟩ s
  else afterCksum cmd { s with cv := true }

/-- The source offset of record i: T + 2580 * i (R151). -/
def recordAddr (s : State) (i : Nat) : Nat := (hdrPartitionsListStart s.himg).toNat + Config.pdSize * i

/-- PT_BODY before record i: the length word read and gated, or the end of the loop (R150, R152, R153). -/
def tickTabLen (cmd : Instr) (i : Nat) (s : State) : State :=
  if i < (hdrPartitionCount s.himg).toNat then
    match memRead (indexWord i) (recordAddr s i) 4 s with
    | .error e => raise cmd e s
    | .ok (W, s1) =>
      let s2 := setCursor (recordAddr s i + 4) s1
      if le32 W 0 ≠ BitVec.ofNat 32 Config.pdSize then
        raise cmd ⟨.badReclen, indexWord i, BitVec.ofNat 64 Config.pdSize, (le32 W 0).zeroExtend 64, 0#64⟩ s2
      else goTo cmd (.tabBody i W) s2
  else afterTable cmd { s with tv := true }

/-- PT_BODY, the other 2576 bytes of record i, and the record appended (R150, R155). -/
def tickTabBody (cmd : Instr) (i : Nat) (W : List Byte) (s : State) : State :=
  match memRead (indexWord i) (recordAddr s i + 4) 2576 s with
  | .error e => raise cmd e s
  | .ok (R, s1) =>
    goTo cmd (.tabLen (i + 1)) (setCursor (recordAddr s i + Config.pdSize) { s1 with pt := s1.pt ++ [W ++ R] })

/-- X_BODY at partition i (R185): a zero-size one skipped with no effect (R186); else its name, PIDX, PROG and CUR set
and DstOpen performed, which needs the host's answer; after the last, XD and the release (R194). -/
def tickPart (cmd : Instr) (i : Nat) (s : State) : Option State :=
  if i < s.pt.length then
    let D := s.pt.getD i []
    let size := (pdPartitionSize D).toNat
    if size = 0 then some (goTo cmd (.part (i + 1)) s)
    else
      let A := (pdPartitionAddr D).toNat
      let U := pdFileNameUnits D
      let name := trimUnits s.pad U
      match s.openAnswers with
      | [] => none
      | a :: rest =>
        let s1 := emit (.dstOpen name)
          (setCursor A { setText U s with pidx := indexWord i, prog := 0#7, openAnswers := rest })
        match a with
        | .ok => some (goTo cmd (.chunkRead i A size size)
            { s1 with dopen := true, dests := openDest name s1.dests })
        | .ioerr => some (raise cmd ⟨.dstOpen, indexWord i, 0#64, 0#64, 0#64⟩ s1)
        | .path => some (raise cmd ⟨.dirCollision, indexWord i, 0#64, 0#64, 0#64⟩ s1)
  else some (complete (releaseIfHeld { s with xd := true }))

/-- X_BODY, the head of the chunk loop: the chunk's source read, or DstClose when nothing remains (R185, R188, R191). -/
def tickChunkRead (cmd : Instr) (i p rem size : Nat) (s : State) : State :=
  if rem = 0 then goTo cmd (.part (i + 1)) { emit .dstClose s with dopen := false }
  else
    match memRead (indexWord i) p (min (s.xchunk : Nat) rem) s with
    | .error e => raise cmd e s
    | .ok (B, s1) => goTo cmd (.chunkWrite i p rem size B) s1

/-- X_BODY, DstWrite of the chunk, which needs the host's answer; then the offset, count and PROG (R185, R190, R192). -/
def tickChunkWrite (cmd : Instr) (i p rem size : Nat) (B : List Byte) (s : State) : Option State :=
  match s.writeAnswers with
  | [] => none
  | a :: rest =>
    let s1 := emit (.dstWrite B) { s with writeAnswers := rest }
    match a with
    | .ok => some (goTo cmd (.progress i (p + B.length) (rem - B.length) size)
        (setCursor (p + B.length)
          { s1 with dests := appendDest B s1.dests
                    prog := BitVec.ofNat 7 (progressPct (rem - B.length) size) }))
    | .ioerr => some (raise cmd
        ⟨.dstWrite, indexWord i, BitVec.ofNat 64 B.length, 0#64, BitVec.ofNat 64 p⟩ s1)

/-- X_BODY, the Progress event of a chunk (R185, R189). -/
def tickProgress (cmd : Instr) (i p rem size : Nat) (s : State) : State :=
  goTo cmd (.chunkRead i p rem size) (emit (.progress (indexWord i) s.prog) s)

/-- The next micro-step of the command in flight; `none` when it needs an answer the host has not given. -/
def stageTick (f : Flight) (s : State) : Option State :=
  match f.stage with
  | .ckReset => some (tickCkReset s)
  | .ckUpdate b => some (tickCkUpdate b s)
  | .seek => some (tickSeek s)
  | .rdU16 => some (tickRdU16 f.cmd s)
  | .rdU32 => some (tickRdU32 f.cmd s)
  | .rdText n => some (tickRdText f.cmd n.toNat s)
  | .hdr => some (tickHdr f.cmd s)
  | .struct => some (tickStruct f.cmd s)
  | .fold1 p => some (tickFold1 f.cmd p s)
  | .fold2 p => some (tickFold2 f.cmd p s)
  | .tabLen i => some (tickTabLen f.cmd i s)
  | .tabBody i W => some (tickTabBody f.cmd i W s)
  | .part i => tickPart f.cmd i s
  | .chunkRead i p rem size => some (tickChunkRead f.cmd i p rem size s)
  | .chunkWrite i p rem size B => tickChunkWrite f.cmd i p rem size B s
  | .progress i p rem size => some (tickProgress f.cmd i p rem size s)
  | .raising e => some (errorStep e s)

end Sys2Proof.Machine
end

