-- ==== Sys2Proof/Machine/Engine.lean ====
section
/-! DEFINITION. The engine: one micro-step of the command in flight (20_memory.md R70), a command run to its end while the
host makes no access, and the acceptance of a command word (45_control.md R205-R208). -/

namespace Sys2Proof.Machine

/-- A micro-step that was in progress when INIT was written is complete; INIT is performed now (R216). -/
def afterTick (s : State) : State :=
  let t := { s with awaiting := false }
  if s.initPending then performInit t else t

/-- One micro-step of the engine: `none` when no command is in flight, or when a transaction stands on the port and the
host has not answered it (U15). A DstOpen or DstWrite that finds no answer is put on the port and waits. -/
def engineTick (s : State) : Option State :=
  match s.flight with
  | none => none
  | some f =>
    match stageTick f s with
    | some t => some (afterTick t)
    | none => if s.awaiting then none else some { s with awaiting := true }

/-- At most n micro-steps, to the end of the command in flight or to a transaction without an answer. -/
def drain : Nat → State → State
  | 0, s => s
  | n + 1, s =>
    match engineTick s with
    | none => s
    | some t => drain n t

/-- A bound above the micro-steps of every command (R262): L < 2^64, fewer than 2^32 descriptors, each size below
2^32. A command that needs more would go on at the next steps. -/
abbrev drainBound : Nat := 2 ^ 70

/-- The host makes no access before BUSY reads 0 again: it has nothing more to do, or it polls (R92, R253). -/
def hostQuiet (s : State) : Bool :=
  match s.inbox with
  | [] => true
  | .wait :: _ => true
  | _ => false

/-- A command just started: run to its end when the host makes no access meanwhile ("may therefore be modelled as one
atomic step", R70), else left in flight for the next steps. Log entry 2. -/
def settle (s : State) : State := if hostQuiet s then drain drainBound s else s

/-- A write while BUSY = 1 (R207): only OVR is set. -/
def refuseBusy (s : State) : State := { s with ovr := true }

/-- CmdError(ILLEGAL) info for a word (R205, R233). -/
def illegalInfo (w : Word32) : ErrInfo := ⟨.illegal, 0#32, 0#64, w.zeroExtend 64, 0#64⟩

/-- CmdError(SEQUENCE) info for a command word that lacks a milestone (R205, R234). -/
def sequenceInfo (m : Milestone) (w : Word32) : ErrInfo := ⟨.sequence, 0#32, m.mask, w.zeroExtend 64, 0#64⟩

/-- An illegal word written to CMD (R205): no effect in FAILED, OVR while BUSY, CmdError(ILLEGAL) in IDLE. The error
entry is performed at once, as acceptance is (log entry 4). -/
def acceptIllegal (w : Word32) (s : State) : State :=
  match s.phase with
  | .failed => s
  | .idle => takeError (illegalInfo w) s
  | _ => refuseBusy s

/-- A legal command word other than INIT (R205): no effect in FAILED, OVR while BUSY, CmdError(SEQUENCE) when its
milestone is missing, else the command starts. -/
def accept (c : Instr) (start : State → State) (s : State) : State :=
  match s.phase with
  | .failed => s
  | .idle =>
    match missing (precondition c) s with
    | some m => takeError (sequenceInfo m (encode c)) s
    | none => settle (start s)
  | _ => refuseBusy s

/-- The engine's step while the host makes no access: one micro-step, or nothing in IDLE, in FAILED, or while the host
owes an answer. -/
def engineStep (s : State) : Host.Outcome State Fault Refusal :=
  match engineTick s with
  | some t => .next t
  | none => if s.busy && s.flight.isNone then .fault .lostCommand else .next s

end Sys2Proof.Machine
end

