-- ==== Sys2Proof/Machine/Checksum.lean ====
section
/-! DEFINITION. The meanings of the checksum accumulator commands (41_checksum.md R130-R140). -/

namespace Sys2Proof.Machine

/-- CK_RESET (R131): CK <- CK_SEED. -/
def execCkReset (s : State) : Host.Outcome State Fault Refusal :=
  .next (accept .ckReset (beginStage .prim .ckReset .ckReset) s)

/-- CK_UPDATE b (R132): CK <- CK_STEP(CK, b). -/
def execCkUpdate (b : Byte) (s : State) : Host.Outcome State Fault Refusal :=
  .next (accept (.ckUpdate b) (beginStage .prim (.ckUpdate b) (.ckUpdate b)) s)

end Sys2Proof.Machine
end

