-- ==== Sys2Proof/Machine/Control.lean ====
section
/-! DEFINITION. The meanings of the control commands RUN and INIT (45_control.md R205-R217). -/

namespace Sys2Proof.Machine

/-- RUN v (R210): HDR_BODY, STRUCT_BODY, CK_BODY when v = 1, PT_BODY, X_BODY, with no acceptance check between them
(R212). -/
def execRun (v : Bool) (s : State) : Host.Outcome State Fault Refusal :=
  .next (accept (.run v) (beginHdr (.run v)) s)

/-- INIT (R216): accepted in every phase. "A micro-step in progress when INIT is written completes first": one that waits
for the host's answer keeps INIT pending (U15). -/
def execInit (s : State) : Host.Outcome State Fault Refusal :=
  if s.awaiting then .next { s with initPending := true } else .next (performInit s)

end Sys2Proof.Machine
end

