-- ==== Sys2Proof/Machine/Decoders.lean ====
section
/-! DEFINITION. The meanings of the record decoder commands (42_decoders.md R145-R157). -/

namespace Sys2Proof.Machine

/-- HDR_DECODE (R146). -/
def execHdrDecode (s : State) : Host.Outcome State Fault Refusal :=
  .next (accept .hdrDecode (beginHdr .hdrDecode) s)

/-- PT_DECODE (R150). -/
def execPtDecode (s : State) : Host.Outcome State Fault Refusal :=
  .next (accept .ptDecode (beginTable .ptDecode) s)

end Sys2Proof.Machine
end

