-- ==== Sys2Proof/Machine/Extractor.lean ====
section
/-! DEFINITION. The meaning of the partition extractor command (44_extractor.md R185-R197). -/

namespace Sys2Proof.Machine

/-- EXTRACT (R185). -/
def execExtract (s : State) : Host.Outcome State Fault Refusal :=
  .next (accept .extract (beginExtract .extract) s)

end Sys2Proof.Machine
end

