-- ==== Sys2Proof/Machine/Reader.lean ====
section
/-! DEFINITION. The meanings of the fixed-layout reader commands (40_reader.md R110-R116). -/

namespace Sys2Proof.Machine

/-- SEEK (R111): CUR <- ARG. -/
def execSeek (s : State) : Host.Outcome State Fault Refusal :=
  .next (accept .seek (beginStage .prim .seek .seek) s)

/-- RD_U16 (R112). -/
def execRdU16 (s : State) : Host.Outcome State Fault Refusal :=
  .next (accept .rdU16 (beginStage .prim .rdU16 .rdU16) s)

/-- RD_U32 (R113). -/
def execRdU32 (s : State) : Host.Outcome State Fault Refusal :=
  .next (accept .rdU32 (beginStage .prim .rdU32 .rdU32) s)

/-- RD_TEXT N (R114). "An N outside 1..256 is not RD_TEXT but an illegal word." -/
def execRdText (n : BitVec 9) (s : State) : Host.Outcome State Fault Refusal :=
  if textLengthLegal n then .next (accept (.rdText n) (beginStage .prim (.rdText n) (.rdText n)) s)
  else .next (acceptIllegal (encode (.rdText n)) s)

end Sys2Proof.Machine
end

