-- ==== Sys2Proof/Machine/Validator.lean ====
section
/-! DEFINITION. The meanings of the integrity validator commands (43_validator.md R165-R178). -/

namespace Sys2Proof.Machine

/-- VAL_STRUCT (R165). -/
def execValStruct (s : State) : Host.Outcome State Fault Refusal :=
  .next (accept .valStruct (beginStruct .valStruct) s)

/-- VAL_CKSUM (R170). -/
def execValCksum (s : State) : Host.Outcome State Fault Refusal :=
  .next (accept .valCksum (beginCksum .valCksum) s)

end Sys2Proof.Machine
end

