-- ==== Sys2Proof/Machine/Dispatch.lean ====
section
/-! DEFINITION. exec: one arm per command. -/

namespace Sys2Proof.Machine

def exec (i : Instr) (s : State) : Host.Outcome State Fault Refusal :=
  match i with
  | .ckReset => Sys2Proof.Machine.execCkReset s
  | .ckUpdate b => Sys2Proof.Machine.execCkUpdate b s
  | .seek => Sys2Proof.Machine.execSeek s
  | .rdU16 => Sys2Proof.Machine.execRdU16 s
  | .rdU32 => Sys2Proof.Machine.execRdU32 s
  | .rdText n => Sys2Proof.Machine.execRdText n s
  | .hdrDecode => Sys2Proof.Machine.execHdrDecode s
  | .valStruct => Sys2Proof.Machine.execValStruct s
  | .ptDecode => Sys2Proof.Machine.execPtDecode s
  | .valCksum => Sys2Proof.Machine.execValCksum s
  | .extract => Sys2Proof.Machine.execExtract s
  | .run v => Sys2Proof.Machine.execRun v s
  | .init => Sys2Proof.Machine.execInit s

end Sys2Proof.Machine
end

