-- ==== Sys2Proof/Machine/HostBus.lean ====
section
/-! DEFINITION. The host's side: the register map (10_state.md R40-R47), register writes (45_control.md R207, R208), the
source presented (R63, R253), the answers, and hardware reset. A write to CMD is `step`'s. -/

namespace Sys2Proof.Machine

/-- PT_COUNT = len(PT) (R43). -/
def ptCount (s : State) : Word32 := BitVec.ofNat 32 s.pt.length

/-- The HIMG window at its byte offset b (R42). -/
def himgWindow (s : State) (b : Nat) : Word32 := le32 s.himg b

/-- The DIMG window at its byte offset b (R44). -/
def dimgWindow (s : State) (b : Nat) : Word32 :=
  if s.ptSel.toNat < s.pt.length then le32 (s.pt.getD s.ptSel.toNat []) b else 0#32

/-- The TBUF window at its byte offset b = 4j: TBUF[2j] in bits 15:0, TBUF[2j+1] in bits 31:16 (R45). -/
def tbufWindow (s : State) (b : Nat) : Word32 :=
  (s.tbuf.getD (b / 2) 0#16).zeroExtend 32 ||| ((s.tbuf.getD (b / 2 + 1) 0#16).zeroExtend 32 <<< 16)

/-- The registers whose value is unspecified while BUSY = 1 (R47, R256): CUR, RESULT, CK, TLEN, PIDX, PROG, PT_COUNT and
the three windows. `none` for every other offset. -/
def workingRegister (off : Nat) (s : State) : Option Word32 :=
  if off = 0x030 then some (s.cur.extractLsb' 0 32)
  else if off = 0x034 then some (s.cur.extractLsb' 32 32)
  else if off = 0x040 then some s.result
  else if off = 0x044 then some (s.ck.zeroExtend 32)
  else if off = 0x048 then some (s.tlen.zeroExtend 32)
  else if off = 0x04C then some s.pidx
  else if off = 0x050 then some (s.prog.zeroExtend 32)
  else if off = 0x058 then some (ptCount s)
  else if 0x1000 ≤ off ∧ off ≤ 0x1848 then some (himgWindow s (off - 0x1000))
  else if 0x2000 ≤ off ∧ off ≤ 0x2A10 then some (dimgWindow s (off - 0x2000))
  else if 0x3000 ≤ off ∧ off ≤ 0x31FC then some (tbufWindow s (off - 0x3000))
  else none

/-- The registers that read exactly in every phase (R47): STATUS, ERR and its info, ARG, LEN, PT_SEL; CMD and every
unmapped offset read 0 (R40, R46). -/
def exactRegister (off : Nat) (s : State) : Word32 :=
  if off = 0x004 then statusWord s
  else if off = 0x008 then errWord s
  else if off = 0x00C then s.errIdx
  else if off = 0x010 then s.errExp.extractLsb' 0 32
  else if off = 0x014 then s.errExp.extractLsb' 32 32
  else if off = 0x018 then s.errGot.extractLsb' 0 32
  else if off = 0x01C then s.errGot.extractLsb' 32 32
  else if off = 0x020 then s.errOff.extractLsb' 0 32
  else if off = 0x024 then s.errOff.extractLsb' 32 32
  else if off = 0x028 then s.arg.extractLsb' 0 32
  else if off = 0x02C then s.arg.extractLsb' 32 32
  else if off = 0x038 then s.len.extractLsb' 0 32
  else if off = 0x03C then s.len.extractLsb' 32 32
  else if off = 0x054 then s.ptSel
  else 0#32

/-- A host read (R40, R46, R47): the value it returns is appended to `reads`; no register changes. While BUSY = 1 a
working register answers a free value (U1). -/
def readRegister (off : Nat) (s : State) : State :=
  match workingRegister off s with
  | none => { s with reads := s.reads ++ [exactRegister off s] }
  | some v =>
    if s.busy then { s with reads := s.reads ++ [Config.busyRead s.draws], draws := s.draws + 1 }
    else { s with reads := s.reads ++ [v] }

/-- A host write to a register other than CMD (R46, R207, R208). -/
def writeRegister (off : Nat) (v : Word32) (s : State) : State :=
  if s.busy then refuseBusy s
  else if off = 0x028 then { s with arg := s.arg.extractLsb' 32 32 ++ v }
  else if off = 0x02C then { s with arg := v ++ s.arg.extractLsb' 0 32 }
  else if off = 0x054 then { s with ptSel := v }
  else s

/-- The word a host act writes to CMD at offset 0x000 (R40, R205). -/
def commandWord? (act : HostAct) : Option Word32 :=
  match act with
  | .write off v => if off = 0x000 then some v else none
  | _ => none

/-- Whether a byte offset is a multiple of 4 (R46). -/
def aligned (off : Nat) : Bool := off % 4 = 0

/-- A host act other than a write to CMD. `s` still has it at the head of its inbox and `rest` is what follows. -/
def hostStep (act : HostAct) (rest : List HostAct) (s : State) : Host.Outcome State Fault Refusal :=
  let t := { s with inbox := rest }
  match act with
  | .write off v => if aligned off then .next (writeRegister off v t) else .refused (.misalignedAccess off)
  | .read off => if aligned off then .next (readRegister off t) else .refused (.misalignedAccess off)
  | .narrow off => .refused (.narrowAccess off)
  | .tick => engineStep t
  | .wait => if s.busy then engineStep s else .next t
  | .present cells len =>
    if s.held then .refused .sourceHeld else .next { t with src := Memory.ofCells cells len.toNat, len := len }
  | .answerOpen a => .next { t with openAnswers := t.openAnswers ++ [a] }
  | .answerWrite a => .next { t with writeAnswers := t.writeAnswers ++ [a] }
  | .reset => .next (hardwareReset t)

/-- The host writes word w to CMD next. -/
def queueCommand (w : Word32) (s : State) : State := { s with inbox := .write 0x000 w :: s.inbox }

end Sys2Proof.Machine
end

