-- ==== Sys2Proof/Machine/Step.lean ====
section
/-! DEFINITION. One step: the next thing the host does, or, when it does nothing, one micro-step of the engine. A word
written to CMD is decoded and run (45_control.md R205); PACX fetches nothing (R22, R75). -/

namespace Sys2Proof.Machine

def step (s : State) : Host.Outcome State Fault Refusal :=
  match s.inbox with
  | [] => engineStep s
  | act :: rest =>
    match commandWord? act with
    | none => hostStep act rest s
    | some w =>
      match decode w with
      | .ok i => exec i { s with inbox := rest }
      | .error _ => .next (acceptIllegal w { s with inbox := rest })

/-- The command word w written to CMD by the host as the next thing it does (log entry 1). -/
def State.withFetchWord (s : State) (nbits w : Nat) : State := queueCommand (tableWord nbits w) s

end Sys2Proof.Machine
end

