-- ==== Sys2Proof/Safety.lean ====
section
/-! DEFINITION. The terms claims use: the state a command starts from, the end of a run (45_control.md R214), the
invariant of every run, the port preconditions (20_memory.md R68), the property a claim may assume of CK_STEP (41_checksum.md
R140), and what a decoded table or an extraction leaves (42_decoders.md R150, 44_extractor.md R185). -/

namespace Sys2Proof.Machine

/-- IDLE, with nothing left of an earlier command, and a host that makes no access before BUSY reads 0 again. Every IDLE
state a run reaches has the first five parts (`State.Inv`). -/
structure Ready (s : State) : Prop where
  idle : s.phase = .idle
  noFlight : s.flight = none
  notAwaiting : s.awaiting = false
  noInit : s.initPending = false
  closed : s.dopen = false
  quiet : hostQuiet s = true

/-- The transactions that let go of the handles held: DstClose, then SrcRelease (R216, R236). -/
def handleEvents (s : State) : List Event :=
  (if s.dopen then [.dstClose] else []) ++ (if s.held then [.srcRelease] else [])

/-- What the error entry leaves (R236, R227): the handles let go of, in that order, the six error registers of one cause,
PHASE = FAILED, and every other register as the command had it when it stopped. -/
def failedWith (e : ErrInfo) (s : State) : State :=
  { s with
    ev := s.ev ++ handleEvents s, dopen := false, held := false, errKind := e.cause.kind, errCause := e.cause
    errIdx := e.idx, errExp := e.exp, errGot := e.got, errOff := e.off, phase := .failed, flight := none }

/-- "Run complete" (R214). -/
def runComplete (s : State) : Prop :=
  s.phase = .idle ∧ s.xd = true ∧ s.errKind = .none ∧ s.dopen = false ∧ s.held = false

/-- "Run failed" (R214). -/
def runFailed (s : State) : Prop := s.phase = .failed

/-- CK_DETECTS_SINGLE_BYTE (R140): a hypothesis on the parameter CK_STEP, never a fact about the block. -/
def CkDetectsSingleByte : Prop :=
  ∀ (c : BitVec 16) (A B : List Byte) (x y : Byte), x ≠ y → fold c (A ++ x :: B) ≠ fold c (A ++ y :: B)

/-- Every register and state element of R48 at its reset value. -/
structure ResetValues (s : State) : Prop where
  phase : s.phase = .idle
  milestones : s.hv = false ∧ s.sv = false ∧ s.tv = false ∧ s.cv = false ∧ s.c1 = false ∧ s.xd = false
  handles : s.ovr = false ∧ s.held = false ∧ s.dopen = false
  errors : s.errKind = .none ∧ s.errCause = .none ∧ s.errIdx = 0#32 ∧ s.errExp = 0#64 ∧ s.errGot = 0#64 ∧ s.errOff = 0#64
  registers : s.arg = 0#64 ∧ s.cur = 0#64 ∧ s.result = 0#32
  checksum : s.ck = Config.ckSeed
  text : s.tbuf = zeroUnits 256 ∧ s.tlen = 0#9
  progress : s.pidx = 0#32 ∧ s.prog = 0#7 ∧ s.ptSel = 0#32
  header : s.himg = zeroBytes 2124
  table : s.pt = []
  continuation : s.flight = none ∧ s.awaiting = false ∧ s.initPending = false

/-- A host act that puts every register at its reset value: `rst`, or the INIT word written to CMD. -/
def isResetAct (act : HostAct) : Bool :=
  match act with
  | .reset => true
  | .write off w => off = 0x000 && w = encode .init
  | _ => false

/-- What R68 asks before each transaction. -/
def portPrecondition (e : Event) (s : State) : Bool :=
  match e with
  | .dstOpen _ => !s.dopen
  | .dstWrite _ => s.dopen
  | .dstClose => s.dopen
  | .progress _ _ => true
  | .srcRelease => s.held

/-- The range of each transaction's arguments (R68, R189). -/
def eventInRange (xchunk : ℕ+) (e : Event) : Prop :=
  match e with
  | .dstOpen name => name.length ≤ 256
  | .dstWrite bytes => 1 ≤ bytes.length ∧ bytes.length ≤ (xchunk : Nat)
  | .dstClose => True
  | .progress _ pct => 1 ≤ pct.toNat ∧ pct.toNat ≤ 100
  | .srcRelease => True

/-- A stage stands in its own phase, belongs to its own command or to RUN, and its continuation (R39) is as its BODY left
it. -/
def stageOk (f : Flight) (s : State) : Prop :=
  match f.stage with
  | .ckReset => s.phase = .prim ∧ f.cmd = .ckReset ∧ s.dopen = false
  | .ckUpdate b => s.phase = .prim ∧ f.cmd = .ckUpdate b ∧ s.dopen = false
  | .seek => s.phase = .prim ∧ f.cmd = .seek ∧ s.dopen = false
  | .rdU16 => s.phase = .prim ∧ f.cmd = .rdU16 ∧ s.dopen = false
  | .rdU32 => s.phase = .prim ∧ f.cmd = .rdU32 ∧ s.dopen = false
  | .rdText n => s.phase = .prim ∧ f.cmd = .rdText n ∧ textLengthLegal n = true ∧ s.dopen = false
  | .hdr => s.phase = .hdr ∧ (f.cmd = .hdrDecode ∨ ∃ v, f.cmd = .run v) ∧ s.dopen = false
  | .struct => s.phase = .struct ∧ s.hv = true ∧ (f.cmd = .valStruct ∨ ∃ v, f.cmd = .run v) ∧ s.dopen = false
  | .fold1 p => s.phase = .ck1 ∧ s.sv = true ∧ p ≤ 2120 ∧ (f.cmd = .valCksum ∨ f.cmd = .run true) ∧ s.dopen = false
  | .fold2 p => s.phase = .ck2 ∧ s.sv = true ∧ 2124 ≤ p ∧ (f.cmd = .valCksum ∨ f.cmd = .run true) ∧ s.dopen = false
  | .tabLen i => s.phase = .table ∧ s.sv = true ∧ s.pt.length = i ∧ i ≤ (hdrPartitionCount s.himg).toNat
      ∧ (f.cmd = .ptDecode ∨ ∃ v, f.cmd = .run v) ∧ s.dopen = false
  | .tabBody i W => s.phase = .table ∧ s.sv = true ∧ s.pt.length = i ∧ i < (hdrPartitionCount s.himg).toNat
      ∧ W.length = 4 ∧ (f.cmd = .ptDecode ∨ ∃ v, f.cmd = .run v) ∧ s.dopen = false
  | .part i => s.phase = .extract ∧ s.tv = true ∧ i ≤ s.pt.length
      ∧ (f.cmd = .extract ∨ ∃ v, f.cmd = .run v) ∧ s.dopen = false
  | .chunkRead i _ rem size => s.phase = .extract ∧ s.tv = true ∧ i < s.pt.length ∧ rem ≤ size ∧ 0 < size
      ∧ size < 2 ^ 32 ∧ (f.cmd = .extract ∨ ∃ v, f.cmd = .run v) ∧ s.dopen = true
  | .chunkWrite i _ rem size B => s.phase = .extract ∧ s.tv = true ∧ i < s.pt.length ∧ rem ≤ size ∧ 0 < size
      ∧ size < 2 ^ 32 ∧ 1 ≤ B.length ∧ B.length ≤ rem ∧ B.length ≤ (s.xchunk : Nat)
      ∧ (f.cmd = .extract ∨ ∃ v, f.cmd = .run v) ∧ s.dopen = true
  | .progress i _ rem size => s.phase = .extract ∧ s.tv = true ∧ i < s.pt.length ∧ rem < size ∧ size < 2 ^ 32
      ∧ s.prog.toNat = progressPct rem size ∧ (f.cmd = .extract ∨ ∃ v, f.cmd = .run v) ∧ s.dopen = true
  | .raising e => s.busy = true ∧ e.cause ≠ .none ∧ (s.dopen = true → s.phase = .extract)
      ∧ (e.cause.kind = .checksum → f.cmd = .valCksum ∨ f.cmd = .run true)

/-- A stage that performs a transaction the host answers. -/
def answeredStage (st : Stage) : Bool :=
  match st with
  | .part _ => true
  | .chunkWrite _ _ _ _ _ => true
  | _ => false

/-- What holds in every state a run from reset reaches: reset has it and every step keeps it. -/
structure State.Inv (s : State) : Prop where
  /-- the source is in canonical form and lies inside [0, L) -/
  source : s.src.wf = true ∧ ∀ c ∈ s.src, c.1 < s.len.toNat
  /-- HIMG, TBUF and every record of PT have the size R37, R34 and R43 give them -/
  images : s.himg.length = 2124 ∧ s.tbuf.length = 256 ∧ ∀ D ∈ s.pt, D.length = 2580
  /-- PT_COUNT is len(PT) without wrapping (R43) -/
  count : s.pt.length < 2 ^ 32
  /-- TLEN is in 0..256 and PROG in 0..100 (R34, R35) -/
  ranges : s.tlen.toNat ≤ 256 ∧ s.prog.toNat ≤ 100
  /-- the internal continuation exists exactly while BUSY = 1 (R39), and is where its command put it -/
  inFlight : s.flight.isSome = s.busy ∧ ∀ f, s.flight = some f → stageOk f s
  /-- only a transaction waits for an answer, and only then can an INIT be pending (R216, U15) -/
  waiting : (s.awaiting = true → ∃ f, s.flight = some f ∧ answeredStage f.stage = true)
    ∧ (s.initPending = true → s.awaiting = true)
  /-- STATUS.ERR is 1 exactly when PHASE = FAILED, and ERR_KIND is the kind of ERR_CAUSE (R41, R226) -/
  error : (s.errKind ≠ .none ↔ s.phase = .failed) ∧ s.errKind = s.errCause.kind
  /-- a destination is open only inside EXTRACT, and FAILED holds no handle (R27, R193, R236) -/
  handles : (s.dopen = true → s.phase = .extract ∧ s.dests ≠ []) ∧ (s.phase = .failed → s.held = false)
  /-- every later milestone needs HV (R38) -/
  milestones : (s.sv = true ∨ s.tv = true ∨ s.cv = true ∨ s.c1 = true ∨ s.xd = true) → s.hv = true
  /-- one destination per name (R69) -/
  destinations : (s.dests.map (·.name)).Nodup
  /-- every transaction of EV carried arguments in its range (R68, R189) -/
  events : ∀ e ∈ s.ev, eventInRange s.xchunk e

/-- Record k of the table as the source holds it: 2580 bytes at T + 2580 * k (R77, R151). -/
def sourceRecord (s : State) (k : Nat) : List Byte := s.src.read (recordAddr s k) Config.pdSize

/-- The first n records of the table as the source holds them. -/
def sourceTable (s : State) (n : Nat) : List (List Byte) := (List.range n).map (sourceRecord s)

/-- Record k lies inside the source and its length field is 2580 (R152). -/
def goodRecord (s : State) (k : Nat) : Prop :=
  recordAddr s k + Config.pdSize ≤ s.len.toNat ∧ pdLength (sourceRecord s k) = 2580#32

/-- The payload of a descriptor, SRC[A .. A+S) (R77). -/
def payloadOf (s : State) (D : List Byte) : List Byte :=
  s.src.read (pdPartitionAddr D).toNat (pdPartitionSize D).toNat

/-- The events of a chunk loop over the bytes still to move, each chunk of at most `x` (R188, R189). -/
def chunkEvents (idx : Word32) (size x : Nat) : Nat → List Byte → List Event
  | 0, _ => []
  | n + 1, B =>
    if B = [] then []
    else .dstWrite (B.take x) :: .progress idx (BitVec.ofNat 7 (progressPct (B.length - x) size))
      :: chunkEvents idx size x n (B.drop x)

/-- The events of one partition that is extracted whole (R193): none for a zero-size one (R186). -/
def partitionEvents (s : State) (i : Nat) (D : List Byte) : List Event :=
  if pdPartitionSize D = 0#32 then []
  else .dstOpen (trimUnits s.pad (pdFileNameUnits D))
    :: (chunkEvents (indexWord i) (pdPartitionSize D).toNat s.xchunk (pdPartitionSize D).toNat (payloadOf s D)
        ++ [.dstClose])

/-- The number of chunks of a partition, ceil(S / XCHUNK) (R188). -/
def chunkCount (s : State) (D : List Byte) : Nat :=
  ((pdPartitionSize D).toNat + (s.xchunk : Nat) - 1) / (s.xchunk : Nat)

/-- What one whole partition leaves (R185, R69): its events, its destination, its answers used up, TBUF, TLEN, PIDX, PROG
and CUR. A zero-size one leaves everything as it was (R186). -/
def extractOne (i : Nat) (D : List Byte) (s : State) : State :=
  if pdPartitionSize D = 0#32 then s
  else
    { setText (pdFileNameUnits D) s with
      ev := s.ev ++ partitionEvents s i D
      dests := ⟨trimUnits s.pad (pdFileNameUnits D), payloadOf s D⟩
        :: s.dests.filter (fun d => d.name ≠ trimUnits s.pad (pdFileNameUnits D))
      openAnswers := s.openAnswers.drop 1
      writeAnswers := s.writeAnswers.drop (chunkCount s D)
      held := true
      pidx := indexWord i
      prog := 100#7
      cur := BitVec.ofNat 64 ((pdPartitionAddr D).toNat + (pdPartitionSize D).toNat) }

/-- What all partitions from index i on leave, in table order (R195). -/
def extractFrom (i : Nat) : List (List Byte) → State → State
  | [], s => s
  | D :: rest, s => extractFrom (i + 1) rest (extractOne i D s)

/-- Every nonzero-size payload lies inside the source, and the host answers OK to every transaction that extracting the
descriptors needs. -/
def extractable (s : State) (table : List (List Byte)) : Prop :=
  (∀ D ∈ table, pdPartitionSize D ≠ 0#32 →
      (pdPartitionAddr D).toNat + (pdPartitionSize D).toNat ≤ s.len.toNat)
  ∧ (∀ a ∈ s.openAnswers, a = .ok) ∧ (∀ a ∈ s.writeAnswers, a = .ok)
  ∧ table.countP (fun D => pdPartitionSize D ≠ 0#32) ≤ s.openAnswers.length
  ∧ (table.map (chunkCount s)).sum ≤ s.writeAnswers.length

/-- The next command, if the last one gave a next state. -/
def andThen (o : Host.Outcome State Fault Refusal) (k : State → Host.Outcome State Fault Refusal) :
    Host.Outcome State Fault Refusal :=
  match o with
  | .next t => k t
  | .fault r => .fault r
  | .refused r => .refused r

/-- The stages of RUN as single commands (R210, R211): header, structural check, checksums when v = 1, table, extraction. -/
def stepwiseRun (v : Bool) (s : State) : Host.Outcome State Fault Refusal :=
  andThen (exec .hdrDecode s) fun s1 =>
  andThen (exec .valStruct s1) fun s2 =>
  andThen (if v then exec .valCksum s2 else .next s2) fun s3 =>
  andThen (exec .ptDecode s3) (exec .extract)

end Sys2Proof.Machine
end

