-- ==== Sys2Proof/Certificates/Slice0/Obligations.lean ====
section
/-! DEFINITION. The statements about PACX, each formalising rules of the spec that its docstring and OBLIGATIONS.json
cite. -/

open Sys2Proof Sys2Proof.Machine

/-! Command words -/

/-- Words written out from R86 and R88, and words of R91 that no command has. -/
def Obligations.WrittenWordsDecode : Prop :=
  decode 0x00000001#32 = .ok .ckReset ∧ decode 0x00004102#32 = .ok (.ckUpdate 0x41#8)
  ∧ decode 0x00000010#32 = .ok .seek ∧ decode 0x00000011#32 = .ok .rdU16 ∧ decode 0x00000012#32 = .ok .rdU32
  ∧ decode 0x00180013#32 = .ok (.rdText 24#9) ∧ decode 0x01000013#32 = .ok (.rdText 256#9)
  ∧ decode 0x00000020#32 = .ok .hdrDecode ∧ decode 0x00000021#32 = .ok .valStruct
  ∧ decode 0x00000022#32 = .ok .ptDecode ∧ decode 0x00000023#32 = .ok .valCksum
  ∧ decode 0x00000024#32 = .ok .extract ∧ decode 0x00000030#32 = .ok (.run false)
  ∧ decode 0x00000130#32 = .ok (.run true) ∧ decode 0x0000003F#32 = .ok .init
  ∧ decode 0x00000013#32 = .error (.textLength 0#9) ∧ decode 0x01010013#32 = .error (.textLength 257#9)
  ∧ decode 0x00014102#32 = .error (.reservedBits 0x00014102#32)
  ∧ decode 0x000000FF#32 = .error (.unknownOpcode 0xFF#8)

/-- Decoding the word of a legal command gives the command back, for every operand value the encoding admits. -/
def Obligations.DecodeOfEncode : Prop :=
  ∀ i : Instr, i.wf = true → decode (encode i) = .ok i

/-- A word that decodes is the one word of its command: no bit of it is dropped, and no illegal operand comes out. -/
def Obligations.DecodedWordIsItsEncoding : Prop :=
  ∀ (w : Word32) (i : Instr), decode w = .ok i → i.wf = true ∧ encode i = w

/-- The decoder accepts exactly the words a row of the opcode map accepts, and no word has two rows (R88, R89). -/
def Obligations.OpcodeMapSelectsOneRow : Prop :=
  (∀ w : Word32, (∃ i, decode w = .ok i) ↔
    ∃ r ∈ opcodeMap, r.accepts w = true ∧ (r.mnemonic = "RD_TEXT" → 1 ≤ (textField w).toNat ∧ (textField w).toNat ≤ 256))
  ∧ ∀ w : Word32, opcodeMap.Pairwise (fun r q => ¬ (r.accepts w = true ∧ q.accepts w = true))

/-! Acceptance of command words and register writes -/

/-- A word written to CMD that decodes to a command runs that command, with the write gone from what the host does
next. -/
def Obligations.StepRunsTheWordWritten : Prop :=
  ∀ (s : State) (w : Word32) (rest : List HostAct) (i : Instr),
    s.inbox = .write 0x000 w :: rest → decode w = .ok i → step s = exec i { s with inbox := rest }

/-- A word that is the encoding of no legal command (R233): in IDLE the error entry with the whole word in ERR_GOT, while
BUSY only OVR, in FAILED nothing. That the IDLE case has the whole error entry, its transactions included, in the step of
the write, whatever the host does next, is the model's choice (log entry 4). -/
def Obligations.IllegalWordIsReportedOnlyInIdle : Prop :=
  ∀ (s : State) (w : Word32) (rest : List HostAct),
    s.inbox = .write 0x000 w :: rest → (∀ i : Instr, i.wf = true → encode i ≠ w) →
    (s.phase = .idle → step s = .next (failedWith ⟨.illegal, 0#32, 0#64, w.zeroExtend 64, 0#64⟩ { s with inbox := rest }))
    ∧ (s.busy = true → step s = .next { s with inbox := rest, ovr := true })
    ∧ (s.phase = .failed → step s = .next { s with inbox := rest })
    ∧ (∀ t : State, errWord (failedWith ⟨.illegal, 0#32, 0#64, w.zeroExtend 64, 0#64⟩ t) = 0x00004105#32)

/-- A legal command whose milestone is missing (R234): the error entry with the mask of the missing milestone and the
command word. That the whole entry, its transactions included, falls in the step of the write, whatever the host does next,
is the model's choice (log entry 4). -/
def Obligations.MissingMilestoneIsReported : Prop :=
  ∀ s : State, s.phase = .idle →
    (s.hv = false → exec .valStruct s = .next (failedWith ⟨.sequence, 0#32, 0x10#64, 0x21#64, 0#64⟩ s))
    ∧ (s.sv = false → exec .valCksum s = .next (failedWith ⟨.sequence, 0#32, 0x20#64, 0x23#64, 0#64⟩ s))
    ∧ (s.sv = false → exec .ptDecode s = .next (failedWith ⟨.sequence, 0#32, 0x20#64, 0x22#64, 0#64⟩ s))
    ∧ (s.tv = false → exec .extract s = .next (failedWith ⟨.sequence, 0#32, 0x40#64, 0x24#64, 0#64⟩ s))
    ∧ (∀ e : ErrInfo, e.cause = .sequence → errWord (failedWith e s) = 0x00004205#32)

/-- While BUSY = 1 every aligned host write but an INIT word only sets OVR (R207); and OVR, once set, stays set at every
step until INIT or reset. -/
def Obligations.BusyWritesOnlySetOvr : Prop :=
  (∀ (s : State) (off : Nat) (v : Word32) (rest : List HostAct),
    s.inbox = .write off v :: rest → s.busy = true → off % 4 = 0 → ¬ (off = 0x000 ∧ v = 0x0000003F#32) →
    step s = .next { s with inbox := rest, ovr := true })
  ∧ ∀ s t : State, s.ovr = true → s.initPending = false →
    (∀ act rest, s.inbox = act :: rest → isResetAct act = false) → step s = .next t → t.ovr = true

/-- In FAILED every command word but INIT is ignored (R215); and until INIT or reset every step changes at most what the
host itself writes, presents, answers or reads: no event, no register of a command, no error register. -/
def Obligations.FailedRunsNothing : Prop :=
  (∀ (s : State) (w : Word32) (rest : List HostAct),
    s.phase = .failed → s.inbox = .write 0x000 w :: rest → w ≠ 0x0000003F#32 →
    step s = .next { s with inbox := rest })
  ∧ ∀ s t : State, s.phase = .failed → s.flight = none →
    (∀ act rest, s.inbox = act :: rest → isResetAct act = false) → step s = .next t →
    t = { s with inbox := t.inbox, arg := t.arg, ptSel := t.ptSel, reads := t.reads, src := t.src, len := t.len,
                 openAnswers := t.openAnswers, writeAnswers := t.writeAnswers }

/-- While BUSY = 0 writes to ARG_LO, ARG_HI and PT_SEL take effect, and any other write but one to CMD has none (R208,
R46). -/
def Obligations.IdleWritesTakeEffect : Prop :=
  ∀ (s : State) (off : Nat) (v : Word32) (rest : List HostAct),
    s.inbox = .write off v :: rest → s.busy = false → off % 4 = 0 → off ≠ 0x000 →
    step s = .next
      (if off = 0x028 then { s with inbox := rest, arg := s.arg.extractLsb' 32 32 ++ v }
       else if off = 0x02C then { s with inbox := rest, arg := v ++ s.arg.extractLsb' 0 32 }
       else if off = 0x054 then { s with inbox := rest, ptSel := v }
       else { s with inbox := rest })

/-- A command run in one step because the host is silent (log entry 2) ends where its micro-steps, one a step, end
(R70). -/
def Obligations.CommandIsItsMicroSteps : Prop :=
  ∀ (i : Instr) (s : State), s.inbox = [] →
    ∃ (k : Nat) (b : State), exec i { s with inbox := [.tick] } = .next b ∧
      Host.Core.run Sys2Proof.core k { b with inbox := [] } = exec i s

/-- An accepted command leaves IDLE at once (R205, R23): while the host goes on making accesses it is in flight, in the
phase of its first stage, with no transaction performed yet. -/
def Obligations.AcceptedCommandLeavesIdle : Prop :=
  ∀ (s : State) (i : Instr) (ph : Phase), s.phase = .idle → hostQuiet s = false → i.wf = true →
    ((∃ b, i = .ckReset ∨ i = .ckUpdate b ∨ i = .seek ∨ i = .rdU16 ∨ i = .rdU32) ∧ ph = .prim
      ∨ (∃ n, i = .rdText n) ∧ ph = .prim
      ∨ (i = .hdrDecode ∨ ∃ v, i = .run v) ∧ ph = .hdr
      ∨ i = .valStruct ∧ s.hv = true ∧ ph = .struct
      ∨ i = .valCksum ∧ s.sv = true ∧ ph = (if hdrMagic s.himg = 0xFFFAFFFA#32 then .ck1 else .ck2)
      ∨ i = .ptDecode ∧ s.sv = true ∧ ph = .table
      ∨ i = .extract ∧ s.tv = true ∧ ph = .extract) →
    ∃ t, exec i s = .next t ∧ t.phase = ph ∧ t.busy = true ∧ t.ev = s.ev ∧ t.held = s.held ∧ t.inbox = s.inbox

/-! Reset, INIT and the error entry -/

/-- The state after reset has the invariant. -/
def Obligations.ResetHasTheInvariant : Prop := State.Inv State.reset

/-- Hardware reset and INIT both leave the values of R48, from any state; LEN keeps mirroring `src_len`. -/
def Obligations.ResetAndInitLeaveTheResetValues : Prop :=
  ResetValues State.reset
  ∧ (∀ (s : State) (rest : List HostAct), s.inbox = .reset :: rest →
      ∃ t, step s = .next t ∧ ResetValues t ∧ t.len = s.len)
  ∧ (∀ s : State, s.awaiting = false → ∃ t, exec .init s = .next t ∧ ResetValues t ∧ t.len = s.len)

/-- Hardware reset performs no transaction and empties EV (R250); SRC, L and the parameters stay (R252). That what the host
has read, will answer and will do stays too is the model's inference (log entry 21), and that the destinations stand in
State, and stay when none is open, is its choice (log entry 13). -/
def Obligations.HardwareResetIsSilent : Prop :=
  ∀ (s : State) (rest : List HostAct), s.inbox = .reset :: rest →
    ∃ t, step s = .next t ∧ ResetValues t ∧ t.ev = [] ∧ t.src = s.src ∧ t.len = s.len ∧ t.xchunk = s.xchunk
      ∧ t.cchunk = s.cchunk ∧ t.pad = s.pad ∧ t.inbox = rest ∧ t.reads = s.reads
      ∧ t.openAnswers = s.openAnswers ∧ t.writeAnswers = s.writeAnswers ∧ (s.dopen = false → t.dests = s.dests)

/-- INIT (R216): in every phase it closes and releases what is held, in that order, keeps EV, and resets every register;
one written while a transaction waits for its answer is performed when that micro-step ends. -/
def Obligations.InitReleasesThenResets : Prop :=
  (∀ s : State, s.awaiting = false →
    ∃ t, exec .init s = .next t ∧ ResetValues t ∧ t.ev = s.ev ++ handleEvents s ∧ t.src = s.src ∧ t.len = s.len
      ∧ t.inbox = s.inbox ∧ t.reads = s.reads ∧ t.dests = s.dests ∧ t.openAnswers = s.openAnswers
      ∧ t.writeAnswers = s.writeAnswers ∧ t.xchunk = s.xchunk ∧ t.cchunk = s.cchunk ∧ t.pad = s.pad
      ∧ t.draws = s.draws)
  ∧ (∀ s : State, s.awaiting = true → exec .init s = .next { s with initPending := true })
  ∧ ∀ (s t u : State) (f : Flight), s.flight = some f → s.initPending = true → stageTick f s = some u →
      engineTick s = some t → ResetValues t ∧ t.ev = u.ev ++ handleEvents u

/-- The error entry (R236): a micro-step with DstClose if a destination is open, then one with SrcRelease if the source is
held, then one that writes the six error registers and PHASE; left to itself it ends in exactly `failedWith`. -/
def Obligations.ErrorEntryReleasesThenLatches : Prop :=
  ∀ (s : State) (c : Instr) (e : ErrInfo), s.flight = some ⟨c, .raising e⟩ → s.initPending = false →
    (s.dopen = true →
      engineTick s = some { s with ev := s.ev ++ [.dstClose], dopen := false, awaiting := false })
    ∧ (s.dopen = false → s.held = true →
      engineTick s = some { s with ev := s.ev ++ [.srcRelease], held := false, awaiting := false })
    ∧ (s.dopen = false → s.held = false →
      engineTick s = some { s with errKind := e.cause.kind, errCause := e.cause, errIdx := e.idx, errExp := e.exp
                                   errGot := e.got, errOff := e.off, phase := .failed, flight := none
                                   awaiting := false })
    ∧ (s.inbox = [] → ∃ k, k ≤ 3 ∧ Host.Core.run Sys2Proof.core k s = .next (failedWith e { s with awaiting := false }))

/-- The word at ERR for every cause (R226, R227). -/
def Obligations.ErrorWordOfEachCause : Prop :=
  ∀ (s : State) (e : ErrInfo), e.cause ≠ .none →
    errWord (failedWith e s) =
      (match e.cause with
       | .none => 0x00000000#32
       | .shortHeader => 0x00000101#32
       | .sizeMismatch => 0x00000201#32
       | .badVersion => 0x00000301#32
       | .badReclen => 0x00000401#32
       | .crc1Mismatch => 0x00001102#32
       | .crc2Mismatch => 0x00001202#32
       | .srcShort => 0x00002103#32
       | .dstOpen => 0x00002203#32
       | .dstWrite => 0x00002303#32
       | .dirCollision => 0x00003104#32
       | .illegal => 0x00004105#32
       | .sequence => 0x00004205#32)

/-! Checksum accumulator -/

/-- CK_RESET (R131): CK becomes CK_SEED and nothing else changes. -/
def Obligations.CkResetLoadsTheSeed : Prop :=
  ∀ s : State, Ready s → exec .ckReset s = .next { s with ck := Config.ckSeed }

/-- CK_UPDATE b (R132): CK becomes CK_STEP(CK, b) and nothing else changes. -/
def Obligations.CkUpdateFoldsOneByte : Prop :=
  ∀ (s : State) (b : Byte), Ready s → exec (.ckUpdate b) s = .next { s with ck := Config.ckStep s.ck b }

/-- CK_RESET followed by CK_UPDATE b0 ... CK_UPDATE bk, each polled to its end, leaves CK = CKSUM([b0..bk]) (R134). -/
def Obligations.CommandSequenceComputesCksum : Prop :=
  (∀ c, fold c [] = c) ∧ (∀ c b B, fold c (b :: B) = fold (Config.ckStep c b) B)
  ∧ (∀ B, cksum B = fold Config.ckSeed B)
  ∧ ∀ (s : State) (B : List Byte) (rest : List HostAct),
      s.phase = .idle → s.flight = none → s.awaiting = false → s.initPending = false →
      s.inbox = .write 0x000 (encode .ckReset) :: .wait
        :: B.flatMap (fun b => [.write 0x000 (encode (.ckUpdate b)), .wait]) ++ rest →
      Host.Core.run Sys2Proof.core (2 * (B.length + 1)) s = .next { s with inbox := rest, ck := cksum B }

/-- Folding in pieces, of any sizes, gives the same value as folding the whole (R139). -/
def Obligations.FoldIgnoresChunking : Prop :=
  (∀ (c : BitVec 16) (A B : List Byte), fold c (A ++ B) = fold (fold c A) B)
  ∧ ∀ (c : BitVec 16) (pieces : List (List Byte)), fold c pieces.flatten = pieces.foldl fold c

/-! Fixed-layout reader -/

/-- SEEK (R111): CUR becomes ARG, whatever ARG is, and nothing else changes. -/
def Obligations.SeekSetsTheCursor : Prop :=
  ∀ s : State, Ready s → exec .seek s = .next { s with cur := s.arg }

/-- RD_U16 (R112) when its two bytes lie inside the source. -/
def Obligations.RdU16ReadsTwoBytes : Prop :=
  ∀ s : State, Ready s → s.cur.toNat + 2 ≤ s.len.toNat →
    exec .rdU16 s = .next
      { s with result := BitVec.ofNat 32 ((s.src.byteAt s.cur.toNat).toNat + 256 * (s.src.byteAt (s.cur.toNat + 1)).toNat),
               cur := s.cur + 2#64, held := true }

/-- RD_U32 (R113) when its four bytes lie inside the source. -/
def Obligations.RdU32ReadsFourBytes : Prop :=
  ∀ s : State, Ready s → s.cur.toNat + 4 ≤ s.len.toNat →
    exec .rdU32 s = .next
      { s with result := BitVec.ofNat 32 ((s.src.byteAt s.cur.toNat).toNat + 256 * (s.src.byteAt (s.cur.toNat + 1)).toNat
                 + 65536 * (s.src.byteAt (s.cur.toNat + 2)).toNat + 16777216 * (s.src.byteAt (s.cur.toNat + 3)).toNat),
               cur := s.cur + 4#64, held := true }

/-- RD_TEXT N (R114) when its 2N bytes lie inside the source: the raw units, zeroes to 256, the trimmed length; an N
outside 1..256 is an illegal word. The second clause is about a term that no word decodes to, which the model treats as
that illegal word by inference (log entry 18), with the whole error entry in the step of the write by choice (log entry
4). -/
def Obligations.RdTextFillsTheTextBuffer : Prop :=
  (∀ (s : State) (n : BitVec 9), Ready s → 1 ≤ n.toNat → n.toNat ≤ 256 → s.cur.toNat + 2 * n.toNat ≤ s.len.toNat →
    exec (.rdText n) s = .next
      { s with tbuf := unitsOf (s.src.read s.cur.toNat (2 * n.toNat)) 0 n.toNat ++ zeroUnits (256 - n.toNat),
               tlen := BitVec.ofNat 9 (textOf s.pad (s.src.read s.cur.toNat (2 * n.toNat)) 0 n.toNat).length,
               cur := s.cur + BitVec.ofNat 64 (2 * n.toNat), held := true })
  ∧ ∀ (s : State) (n : BitVec 9), ¬ (1 ≤ n.toNat ∧ n.toNat ≤ 256) → s.phase = .idle →
    exec (.rdText n) s = .next (failedWith ⟨.illegal, 0#32, 0#64, (encode (.rdText n)).zeroExtend 64, 0#64⟩ s)

/-- A reader command whose bytes pass L (R112, R113, R114, R61): IOError(SRC_SHORT) with the cursor, the count asked and
the count there; RESULT, TBUF, TLEN and CUR unchanged. -/
def Obligations.ShortReadsChangeNoResult : Prop :=
  ∀ s : State, Ready s →
    (s.len.toNat < s.cur.toNat + 2 → exec .rdU16 s = .next
      (failedWith ⟨.srcShort, 0#32, 2#64, BitVec.ofNat 64 (s.len.toNat - s.cur.toNat), s.cur⟩ s))
    ∧ (s.len.toNat < s.cur.toNat + 4 → exec .rdU32 s = .next
      (failedWith ⟨.srcShort, 0#32, 4#64, BitVec.ofNat 64 (s.len.toNat - s.cur.toNat), s.cur⟩ s))
    ∧ ∀ n : BitVec 9, 1 ≤ n.toNat → n.toNat ≤ 256 → s.len.toNat < s.cur.toNat + 2 * n.toNat →
      exec (.rdText n) s = .next
        (failedWith ⟨.srcShort, 0#32, BitVec.ofNat 64 (2 * n.toNat), BitVec.ofNat 64 (s.len.toNat - s.cur.toNat), s.cur⟩ s)

/-- TRIM(U) is the shortest P with U = P followed by PAD units only (R16). -/
def Obligations.TrimIsTheShortestText : Prop :=
  ∀ (p : PadRule) (U : List CodeUnit),
    (∃ R, U = trimUnits p U ++ R ∧ ∀ u ∈ R, padUnit p u = true)
    ∧ ∀ P R : List CodeUnit, U = P ++ R → (∀ u ∈ R, padUnit p u = true) → (trimUnits p U).length ≤ P.length

/-- LE16 and LE32 are the little-endian unsigned values of their bytes, and mixed-width views agree (R16, R64, R65). -/
def Obligations.LittleEndianViewsAgree : Prop :=
  ∀ (B : List Byte) (o : Nat),
    (le16 B o).toNat = (byteOf B o).toNat + 256 * (byteOf B (o + 1)).toNat
    ∧ (le32 B o).toNat = (byteOf B o).toNat + 256 * (byteOf B (o + 1)).toNat + 65536 * (byteOf B (o + 2)).toNat
        + 16777216 * (byteOf B (o + 3)).toNat
    ∧ le16 B o = (le32 B o).extractLsb' 0 16 ∧ le16 B (o + 2) = (le32 B o).extractLsb' 16 16

/-- A text value stored in a slot with PAD units after it, whichever they are, reads back, provided it does not itself end
in a PAD unit (R101). -/
def Obligations.StoredTextReadsBack : Prop :=
  ∀ (p : PadRule) (V padding : List CodeUnit),
    (∀ u ∈ padding, padUnit p u = true) → (∀ u, V.getLast? = some u → padUnit p u = false) →
    (storeText V padding).length = 2 * (V.length + padding.length)
    ∧ textOf p (storeText V padding) 0 (V.length + padding.length) = V

/-! Record decoders -/

/-- HDR_DECODE (R146): both outcomes. -/
def Obligations.HdrDecodeReadsTheHeader : Prop :=
  ∀ s : State, Ready s →
    (2124 ≤ s.len.toNat → exec .hdrDecode s = .next
      { s with hv := true, sv := false, tv := false, cv := false, c1 := false, xd := false,
               himg := s.src.read 0 2124, cur := 2124#64, held := true })
    ∧ (s.len.toNat < 2124 → exec .hdrDecode s = .next
      (failedWith ⟨.shortHeader, 0#32, 2124#64, s.len, 0#64⟩
        { s with hv := false, sv := false, tv := false, cv := false, c1 := false, xd := false }))

/-- HIMG changes only at the read of a header decode that succeeds, and then all 2124 bytes at once (R37, R147), in a
micro-step and in a step: one of HDR_DECODE or RUN, in flight or accepted in this step. The exceptions are INIT and hardware
reset, which leave its reset value: the act of this step, or an INIT that waited for the micro-step to end. -/
def Obligations.HimgWrittenOnlyByHeaderDecode : Prop :=
  (∀ s t : State, engineTick s = some t → t.himg ≠ s.himg →
    s.initPending = true ∧ t.himg = zeroBytes 2124
    ∨ (∃ c, s.flight = some ⟨c, .hdr⟩) ∧ t.himg = s.src.read 0 2124 ∧ t.hv = true ∧ 2124 ≤ s.len.toNat)
  ∧ ∀ s t : State, step s = .next t → t.himg ≠ s.himg →
    (s.initPending = true ∨ ∃ act rest, s.inbox = act :: rest ∧ isResetAct act = true) ∧ t.himg = zeroBytes 2124
    ∨ ((∃ c, s.flight = some ⟨c, .hdr⟩)
        ∨ ∃ w rest, s.inbox = .write 0x000 w :: rest ∧ s.phase = .idle
            ∧ (decode w = .ok .hdrDecode ∨ ∃ v, decode w = .ok (.run v)))
      ∧ t.himg = s.src.read 0 2124 ∧ t.hv = true ∧ 2124 ≤ s.len.toNat

/-- Decoding a record field by field and writing the fields back gives the record's bytes (R102). -/
def Obligations.RecordsRoundTrip : Prop :=
  (∀ B : List Byte, B.length = 2124 → encodeRecord (decodeRecord 0 headerLayout B) = B)
  ∧ ∀ B : List Byte, B.length = 2580 → encodeRecord (decodeRecord 0 descriptorLayout B) = B

/-- PT_DECODE (R150) of a table whose every record lies inside the source with length field 2580. -/
def Obligations.PtDecodeStoresEveryRecord : Prop :=
  ∀ s : State, Ready s → s.sv = true →
    (∀ k, k < (hdrPartitionCount s.himg).toNat → goodRecord s k) →
    exec .ptDecode s = .next
      { s with tv := true, pt := sourceTable s (hdrPartitionCount s.himg).toNat,
               cur := BitVec.ofNat 64 (recordAddr s (hdrPartitionCount s.himg).toNat),
               held := s.held || decide (0 < (hdrPartitionCount s.himg).toNat) }

/-- PT_DECODE stops at the first record that fails (R150, R152, R153, R155): a length word past L, a length field that is
not 2580, or a body past L, in that order; the records before it stay in PT. -/
def Obligations.PtDecodeStopsAtTheFirstBadRecord : Prop :=
  ∀ (s : State) (i : Nat), Ready s → s.sv = true → i < (hdrPartitionCount s.himg).toNat →
    (∀ k, k < i → goodRecord s k) →
    (s.len.toNat < recordAddr s i + 4 → exec .ptDecode s = .next
      (failedWith ⟨.srcShort, indexWord i, 4#64, BitVec.ofNat 64 (s.len.toNat - recordAddr s i),
          BitVec.ofNat 64 (recordAddr s i)⟩
        { s with tv := false, pt := sourceTable s i, cur := BitVec.ofNat 64 (recordAddr s i),
                 held := s.held || decide (0 < i) }))
    ∧ (recordAddr s i + 4 ≤ s.len.toNat → le32 (s.src.read (recordAddr s i) 4) 0 ≠ 2580#32 →
      exec .ptDecode s = .next
      (failedWith ⟨.badReclen, indexWord i, 2580#64, (le32 (s.src.read (recordAddr s i) 4) 0).zeroExtend 64, 0#64⟩
        { s with tv := false, pt := sourceTable s i, cur := BitVec.ofNat 64 (recordAddr s i + 4), held := true }))
    ∧ (recordAddr s i + 4 ≤ s.len.toNat → le32 (s.src.read (recordAddr s i) 4) 0 = 2580#32 →
        s.len.toNat < recordAddr s i + 2580 → exec .ptDecode s = .next
      (failedWith ⟨.srcShort, indexWord i, 2576#64, BitVec.ofNat 64 (s.len.toNat - (recordAddr s i + 4)),
          BitVec.ofNat 64 (recordAddr s i + 4)⟩
        { s with tv := false, pt := sourceTable s i, cur := BitVec.ofNat 64 (recordAddr s i + 4), held := true }))

/-- PT_DECODE of a table of no records reads nothing and succeeds, wherever the table starts (R154). -/
def Obligations.PtDecodeOfNoRecords : Prop :=
  ∀ s : State, Ready s → s.sv = true → hdrPartitionCount s.himg = 0#32 →
    exec .ptDecode s = .next
      { s with tv := true, pt := [], cur := (hdrPartitionsListStart s.himg).zeroExtend 64 }

/-! Integrity validator -/

/-- VAL_STRUCT (R165, R167): the size gate, then the version gate, then success; no source byte is read. -/
def Obligations.ValStructChecksSizeThenVersion : Prop :=
  ∀ s : State, Ready s → s.hv = true →
    exec .valStruct s = .next
      (if (hdrFileSize s.himg).zeroExtend 64 ≠ s.len then
        failedWith ⟨.sizeMismatch, 0#32, (hdrFileSize s.himg).zeroExtend 64, s.len, 0#64⟩ { s with sv := false }
      else if textOf s.pad s.himg 0 24 ≠ Config.versionLit then
        failedWith ⟨.badVersion, 0#32, 0#64, 0#64, 0#64⟩
          { s with sv := false, tbuf := unitsOf s.himg 0 24 ++ zeroUnits 232,
                   tlen := BitVec.ofNat 9 (textOf s.pad s.himg 0 24).length }
      else
        { s with sv := true, tbuf := unitsOf s.himg 0 24 ++ zeroUnits 232, tlen := 9#9 })

/-- VAL_CKSUM (R170, R171, R173, R178): region 1 only when the magic is 0xFFFAFFFA, then region 2 always, each folded from
CK_SEED over the source's bytes; where CK, CUR and C1 stand after each outcome. -/
def Obligations.ValCksumComparesTheRegions : Prop :=
  ∀ s : State, Ready s → s.sv = true → 2124 ≤ s.len.toNat →
    exec .valCksum s = .next
      (let magic := decide (hdrMagic s.himg = 0xFFFAFFFA#32)
       let sum1 := cksum (s.src.read 0 2120)
       let sum2 := cksum (s.src.read 2124 (s.len.toNat - 2124))
       let held2 := s.held || magic || decide (2124 < s.len.toNat)
       if magic = true ∧ sum1 ≠ hdrCrc1 s.himg then
         failedWith ⟨.crc1Mismatch, 0#32, (hdrCrc1 s.himg).zeroExtend 64, sum1.zeroExtend 64, 0#64⟩
           { s with cv := false, c1 := false, ck := sum1, cur := 2120#64, held := true }
       else if sum2 ≠ hdrCrc2 s.himg then
         failedWith ⟨.crc2Mismatch, 0#32, (hdrCrc2 s.himg).zeroExtend 64, sum2.zeroExtend 64, 0#64⟩
           { s with cv := false, c1 := magic, ck := sum2, cur := s.len, held := held2 }
       else { s with cv := true, c1 := magic, ck := sum2, cur := s.len, held := held2 })

/-- One changed byte of region 2 makes RUN with V = 1 end in CRC2_MISMATCH, when CK_STEP detects single bytes and the
unchanged container passes (R177). The property of CK_STEP is a hypothesis (R140). -/
def Obligations.SingleByteMutationIsDetected : Prop :=
  CkDetectsSingleByte → ∀ (s s' : State) (a : Nat),
    Ready s' → s'.len = s.len → s'.pad = s.pad → 2124 ≤ a → a < s.len.toNat →
    s'.src.byteAt a ≠ s.src.byteAt a → (∀ b, b ≠ a → s'.src.byteAt b = s.src.byteAt b) →
    (hdrFileSize (s.src.read 0 2124)).zeroExtend 64 = s.len →
    textOf s.pad (s.src.read 0 2124) 0 24 = Config.versionLit →
    (hdrMagic (s.src.read 0 2124) = 0xFFFAFFFA#32 → cksum (s.src.read 0 2120) = hdrCrc1 (s.src.read 0 2124)) →
    cksum (s.src.read 2124 (s.len.toNat - 2124)) = hdrCrc2 (s.src.read 0 2124) →
    ∃ t, exec (.run true) s' = .next t ∧ t.phase = .failed ∧ t.errCause = .crc2Mismatch
      ∧ t.errExp = (hdrCrc2 (s.src.read 0 2124)).zeroExtend 64
      ∧ t.errGot = (cksum (s'.src.read 2124 (s.len.toNat - 2124))).zeroExtend 64

/-- Only VAL_CKSUM and RUN with V = 1 can latch a ChecksumError (R176): no other command does by its meaning, and from a
state with the invariant no micro-step and no step does unless one of the two is in flight or is the command the step
accepts. -/
def Obligations.ChecksumErrorsAreOptIn : Prop :=
  (∀ (i : Instr) (s t : State), i ≠ .valCksum → i ≠ .run true → exec i s = .next t →
    t.errKind = .checksum → s.errKind = .checksum)
  ∧ (∀ s t : State, s.Inv → engineTick s = some t → t.errKind = .checksum →
    ∃ f, s.flight = some f ∧ (f.cmd = .valCksum ∨ f.cmd = .run true))
  ∧ ∀ s t : State, s.Inv → step s = .next t → t.errKind = .checksum →
    s.errKind = .checksum
    ∨ (∃ f, s.flight = some f ∧ (f.cmd = .valCksum ∨ f.cmd = .run true))
    ∨ ∃ w rest, s.inbox = .write 0x000 w :: rest ∧ s.phase = .idle
        ∧ (decode w = .ok .valCksum ∨ decode w = .ok (.run true))

/-! Partition extractor -/

/-- EXTRACT (R185, R186, R188, R194, R195) of a table whose payloads lie inside the source, every answer OK: every
nonzero-size partition in table order, XD, and the release. -/
def Obligations.ExtractWritesEveryPartition : Prop :=
  ∀ s : State, Ready s → s.tv = true → s.pt.length < 2 ^ 32 → extractable s s.pt →
    exec .extract s = .next
      (let t := extractFrom 0 s.pt s
       { t with xd := true, held := false, ev := t.ev ++ (if t.held then [.srcRelease] else []) })

/-- A zero-size partition is skipped with no read, no event and no change (R186). -/
def Obligations.ZeroSizePartitionIsSkipped : Prop :=
  ∀ (s : State) (c : Instr) (i : Nat), s.flight = some ⟨c, .part i⟩ → s.initPending = false → i < s.pt.length →
    pdPartitionSize (s.pt.getD i []) = 0#32 →
    engineTick s = some { s with flight := some ⟨c, .part (i + 1)⟩, awaiting := false }

/-- The destination holds the payload: the chunks of `chunkEvents` are the payload in order, ceil(S / XCHUNK) of them,
every one but the last of XCHUNK bytes (R188); the percentages are in 1..100, non-decreasing, one per chunk, and the last
is 100 (R189). -/
def Obligations.ChunksCoverThePayload : Prop :=
  ∀ (idx : Word32) (x : ℕ+) (B : List Byte), B ≠ [] → B.length < 2 ^ 32 →
    let evs := chunkEvents idx B.length x B.length B
    let writes := evs.filterMap (fun e => match e with | .dstWrite b => some b | _ => none)
    let pcts := evs.filterMap (fun e => match e with | .progress _ p => some p.toNat | _ => none)
    writes.flatten = B ∧ writes.length = (B.length + (x : Nat) - 1) / (x : Nat)
    ∧ (∀ b ∈ writes.dropLast, b.length = (x : Nat)) ∧ (∀ b ∈ writes, 1 ≤ b.length ∧ b.length ≤ (x : Nat))
    ∧ pcts.length = writes.length ∧ (∀ q ∈ pcts, 1 ≤ q ∧ q ≤ 100) ∧ pcts.Pairwise (· ≤ ·)
    ∧ pcts.getLast? = some 100

/-- A failed DstOpen, a short chunk read and a failed DstWrite each end the run through the error entry, with the info of
R226; a chunk that is read short is not written (R191, R192). That a DstOpen or DstWrite that fails leaves the destinations
as they were is the model's choice (log entry 13). -/
def Obligations.FailedTransactionsEndTheRun : Prop :=
  (∀ (s : State) (c : Instr) (i : Nat) (rest : List OpenAnswer) (a : OpenAnswer), s.inbox = [] → s.initPending = false →
    s.flight = some ⟨c, .part i⟩ → i < s.pt.length → pdPartitionSize (s.pt.getD i []) ≠ 0#32 →
    s.openAnswers = a :: rest → a ≠ .ok →
    ∃ k, k ≤ 4 ∧ Host.Core.run Sys2Proof.core k s = .next
      (failedWith ⟨if a = .path then .dirCollision else .dstOpen, indexWord i, 0#64, 0#64, 0#64⟩
        { s with awaiting := false, openAnswers := rest, pidx := indexWord i, prog := 0#7
                 cur := (pdPartitionAddr (s.pt.getD i [])).zeroExtend 64
                 tbuf := pdFileNameUnits (s.pt.getD i [])
                 tlen := BitVec.ofNat 9 (trimUnits s.pad (pdFileNameUnits (s.pt.getD i []))).length
                 ev := s.ev ++ [.dstOpen (trimUnits s.pad (pdFileNameUnits (s.pt.getD i [])))] }))
  ∧ (∀ (s : State) (c : Instr) (i p rem size : Nat), s.inbox = [] → s.initPending = false →
    s.flight = some ⟨c, .chunkRead i p rem size⟩ → rem ≠ 0 → s.len.toNat < p + min (s.xchunk : Nat) rem →
    ∃ k, k ≤ 4 ∧ Host.Core.run Sys2Proof.core k s = .next
      (failedWith ⟨.srcShort, indexWord i, BitVec.ofNat 64 (min (s.xchunk : Nat) rem),
        BitVec.ofNat 64 (s.len.toNat - p), BitVec.ofNat 64 p⟩ { s with awaiting := false }))
  ∧ (∀ (s : State) (c : Instr) (i p rem size : Nat) (B : List Byte) (rest : List WriteAnswer), s.inbox = [] →
    s.initPending = false → s.flight = some ⟨c, .chunkWrite i p rem size B⟩ → s.writeAnswers = .ioerr :: rest →
    ∃ k, k ≤ 4 ∧ Host.Core.run Sys2Proof.core k s = .next
      (failedWith ⟨.dstWrite, indexWord i, BitVec.ofNat 64 B.length, 0#64, BitVec.ofNat 64 p⟩
        { s with awaiting := false, writeAnswers := rest, ev := s.ev ++ [.dstWrite B] }))

/-- A micro-step performs at most one port transaction, and only when its precondition holds (R68, R70). -/
def Obligations.MicroStepsCarryOneTransaction : Prop :=
  ∀ s t : State, s.Inv → s.initPending = false → engineTick s = some t →
    t.ev = s.ev ∨ ∃ e, t.ev = s.ev ++ [e] ∧ portPrecondition e s = true ∧ eventInRange s.xchunk e

/-! RUN -/

/-- RUN v is the five commands issued one by one, HDR_DECODE, VAL_STRUCT, VAL_CKSUM when v = 1, PT_DECODE, EXTRACT, each
ignored once one has failed (R210, R211, R212, R215). -/
def Obligations.RunIsTheFiveCommandsInOrder : Prop :=
  ∀ (v : Bool) (s t : State), Ready s → stepwiseRun v s = .next t → t.busy = false → exec (.run v) s = .next t

/-- RUN v on a container that passes every check, every answer OK (R210, R213, R214): HIMG, the milestones, TBUF, CK, PT and
CUR as the stages leave them, then every partition, XD and the release; and the run is complete. -/
def Obligations.RunOfAGoodContainerCompletes : Prop :=
  ∀ (v : Bool) (s s1 : State), Ready s → s1 = { s with himg := s.src.read 0 2124 } → 2124 ≤ s.len.toNat →
    (hdrFileSize s1.himg).zeroExtend 64 = s.len → textOf s.pad s1.himg 0 24 = Config.versionLit →
    (v = true → (hdrMagic s1.himg = 0xFFFAFFFA#32 → cksum (s.src.read 0 2120) = hdrCrc1 s1.himg)
      ∧ cksum (s.src.read 2124 (s.len.toNat - 2124)) = hdrCrc2 s1.himg) →
    (∀ k, k < (hdrPartitionCount s1.himg).toNat → goodRecord s1 k) →
    extractable s1 (sourceTable s1 (hdrPartitionCount s1.himg).toNat) →
    ∃ t, exec (.run v) s = .next t ∧ (s.errKind = .none → runComplete t) ∧
      t = (let n := (hdrPartitionCount s1.himg).toNat
           let s2 := { s1 with
             hv := true, sv := true, tv := true, cv := v
             c1 := v && decide (hdrMagic s1.himg = 0xFFFAFFFA#32)
             tbuf := unitsOf s1.himg 0 24 ++ zeroUnits 232, tlen := 9#9
             ck := if v then cksum (s.src.read 2124 (s.len.toNat - 2124)) else s.ck
             pt := sourceTable s1 n, cur := BitVec.ofNat 64 (recordAddr s1 n), held := true }
           let u := extractFrom 0 (sourceTable s1 n) s2
           { u with xd := true, held := false, ev := u.ev ++ [.srcRelease] })

/-! The register map -/

/-- Reading STATUS, in every phase, gives the word whose bits R41 lists; ERR is also PHASE = FAILED in every state with the
invariant; and a write to STATUS changes nothing but OVR, and that only while BUSY = 1. -/
def Obligations.StatusReadsTheFlags : Prop :=
  (∀ (s : State) (v : Word32) (rest : List HostAct), s.inbox = .write 0x004 v :: rest →
    step s = .next { s with inbox := rest, ovr := s.ovr || s.busy })
  ∧ ∀ (s : State) (rest : List HostAct), s.inbox = .read 0x004 :: rest →
    ∃ w : Word32, step s = .next { s with inbox := rest, reads := s.reads ++ [w] }
      ∧ w.getLsbD 0 = s.busy ∧ w.getLsbD 1 = s.xd ∧ w.getLsbD 2 = decide (s.errKind ≠ .none) ∧ w.getLsbD 3 = s.ovr
      ∧ w.getLsbD 4 = s.hv ∧ w.getLsbD 5 = s.sv ∧ w.getLsbD 6 = s.tv ∧ w.getLsbD 7 = s.cv ∧ w.getLsbD 8 = s.c1
      ∧ w.getLsbD 9 = s.held ∧ w.getLsbD 10 = s.dopen ∧ w.getLsbD 11 = false ∧ w.extractLsb' 12 4 = s.phase.code
      ∧ w.extractLsb' 16 16 = 0#16 ∧ (s.Inv → w.getLsbD 2 = decide (s.phase = .failed))

/-- While BUSY = 0 every offset of the register map reads as R40 says, the windows as R42, R44 and R45 say. -/
def Obligations.RegisterMapReads : Prop :=
  ∀ (s : State) (off : Nat) (rest : List HostAct) (v : Word32), s.inbox = .read off :: rest → s.busy = false →
    ((off, v) ∈ ([(0x000, 0#32), (0x004, statusWord s),
        (0x008, s.errKind.code.zeroExtend 32 ||| (s.errCause.code.zeroExtend 32 <<< 8)), (0x00C, s.errIdx),
        (0x010, s.errExp.extractLsb' 0 32), (0x014, s.errExp.extractLsb' 32 32),
        (0x018, s.errGot.extractLsb' 0 32), (0x01C, s.errGot.extractLsb' 32 32), (0x020, s.errOff.extractLsb' 0 32),
        (0x024, s.errOff.extractLsb' 32 32), (0x028, s.arg.extractLsb' 0 32), (0x02C, s.arg.extractLsb' 32 32),
        (0x030, s.cur.extractLsb' 0 32), (0x034, s.cur.extractLsb' 32 32), (0x038, s.len.extractLsb' 0 32),
        (0x03C, s.len.extractLsb' 32 32), (0x040, s.result), (0x044, s.ck.zeroExtend 32), (0x048, s.tlen.zeroExtend 32),
        (0x04C, s.pidx), (0x050, s.prog.zeroExtend 32), (0x054, s.ptSel), (0x058, BitVec.ofNat 32 s.pt.length)]
        : List (Nat × Word32))
      ∨ (∃ j, j ≤ 530 ∧ off = 0x1000 + 4 * j ∧ v = le32 s.himg (4 * j))
      ∨ (∃ j, j ≤ 644 ∧ off = 0x2000 + 4 * j
          ∧ v = if s.ptSel.toNat < s.pt.length then le32 (s.pt.getD s.ptSel.toNat []) (4 * j) else 0#32)
      ∨ (∃ j, j ≤ 127 ∧ off = 0x3000 + 4 * j
          ∧ v = (s.tbuf.getD (2 * j) 0#16).zeroExtend 32 ||| ((s.tbuf.getD (2 * j + 1) 0#16).zeroExtend 32 <<< 16))
      ∨ (off % 4 = 0 ∧ 0x05C ≤ off ∧ ¬ (0x1000 ≤ off ∧ off ≤ 0x1848) ∧ ¬ (0x2000 ≤ off ∧ off ≤ 0x2A10)
          ∧ ¬ (0x3000 ≤ off ∧ off ≤ 0x31FC) ∧ v = 0#32)) →
    step s = .next { s with inbox := rest, reads := s.reads ++ [v] }

/-- While BUSY = 1 the status, error, ARG, LEN and PT_SEL registers read exactly; the working registers and the windows
read a fresh draw (R47), whatever the free value is; CMD and every unmapped offset read 0 (R40, R46). -/
def Obligations.BusyReadsAreExactOrDrawn : Prop :=
  ∀ (s : State) (off : Nat) (rest : List HostAct), s.inbox = .read off :: rest → s.busy = true → off % 4 = 0 →
    (off ∈ [0x030, 0x034, 0x040, 0x044, 0x048, 0x04C, 0x050, 0x058] ∨ (0x1000 ≤ off ∧ off ≤ 0x1848)
        ∨ (0x2000 ≤ off ∧ off ≤ 0x2A10) ∨ (0x3000 ≤ off ∧ off ≤ 0x31FC) →
      step s = .next { s with inbox := rest, reads := s.reads ++ [Config.busyRead s.draws], draws := s.draws + 1 })
    ∧ (off = 0x000 ∨ (0x05C ≤ off ∧ ¬ (0x1000 ≤ off ∧ off ≤ 0x1848) ∧ ¬ (0x2000 ≤ off ∧ off ≤ 0x2A10)
        ∧ ¬ (0x3000 ≤ off ∧ off ≤ 0x31FC)) →
      step s = .next { s with inbox := rest, reads := s.reads ++ [0#32] })
    ∧ ∀ v, (off, v) ∈ ([(0x004, statusWord s), (0x008, errWord s), (0x00C, s.errIdx),
        (0x010, s.errExp.extractLsb' 0 32), (0x014, s.errExp.extractLsb' 32 32), (0x018, s.errGot.extractLsb' 0 32),
        (0x01C, s.errGot.extractLsb' 32 32), (0x020, s.errOff.extractLsb' 0 32), (0x024, s.errOff.extractLsb' 32 32),
        (0x028, s.arg.extractLsb' 0 32), (0x02C, s.arg.extractLsb' 32 32), (0x038, s.len.extractLsb' 0 32),
        (0x03C, s.len.extractLsb' 32 32), (0x054, s.ptSel)] : List (Nat × Word32)) →
      step s = .next { s with inbox := rest, reads := s.reads ++ [v] }

/-- An aligned read changes no register and performs no transaction; an access that is misaligned or narrow is outside the
interface (R46, U9). -/
def Obligations.ReadsHaveNoSideEffects : Prop :=
  (∀ (s : State) (off : Nat) (rest : List HostAct), s.inbox = .read off :: rest → off % 4 = 0 →
    ∃ (v : Word32) (d : Nat), step s = .next { s with inbox := rest, reads := s.reads ++ [v], draws := d })
  ∧ (∀ (s : State) (off : Nat) (v : Word32) (rest : List HostAct), off % 4 ≠ 0 →
    (s.inbox = .read off :: rest ∨ s.inbox = .write off v :: rest → step s = .refused (.misalignedAccess off)))
  ∧ ∀ (s : State) (off : Nat) (rest : List HostAct), s.inbox = .narrow off :: rest → step s = .refused (.narrowAccess off)

/-- The host presents a container (R31, R63, R253): LEN mirrors its length, each listed byte inside [0, L) reads back and
every other reads 0; while PACX holds the source the model has no such move (U7). -/
def Obligations.HostPresentsTheSource : Prop :=
  ∀ (s : State) (cells : List Host.Cell) (len : Word64) (rest : List HostAct),
    s.inbox = .present cells len :: rest →
    (s.held = true → step s = .refused .sourceHeld)
    ∧ (s.held = false → ∃ m : Memory, step s = .next { s with inbox := rest, src := m, len := len } ∧ m.wf = true
        ∧ ((cells.map Prod.fst).Nodup → ∀ a, m.byteAt a =
            (if a < len.toNat then (match cells.find? (fun c => c.1 = a) with | some c => c.2 | none => 0#8) else 0#8)))

/-! Whole-machine rules -/

/-- Every step keeps the invariant, from every state that has it. -/
def Obligations.StepKeepsTheInvariant : Prop :=
  ∀ s t : State, s.Inv → step s = .next t → t.Inv

/-- From a state with the invariant no step faults, and a step is refused only for a host access outside the interface or
a change of the source while it is held. -/
def Obligations.StepsStopOnlyOutsideTheInterface : Prop :=
  ∀ s : State, s.Inv →
    (∀ r, step s ≠ .fault r)
    ∧ ∀ r, step s = .refused r →
      (∃ off v rest, (s.inbox = .write off v :: rest ∨ s.inbox = .read off :: rest) ∧ off % 4 ≠ 0
        ∧ r = .misalignedAccess off)
      ∨ (∃ off rest, s.inbox = .narrow off :: rest ∧ r = .narrowAccess off)
      ∨ (∃ cells len rest, s.inbox = .present cells len :: rest ∧ s.held = true ∧ r = .sourceHeld)

/-- No command changes the source, L, a parameter, ARG, PT_SEL (INIT resets the last two), what the host has read or what
it does next (R17, R29, R36, R46, R252). -/
def Obligations.CommandsLeaveHostInputsAlone : Prop :=
  ∀ (i : Instr) (s t : State), exec i s = .next t →
    (∀ a, t.src.byteAt a = s.src.byteAt a) ∧ t.len = s.len ∧ t.xchunk = s.xchunk ∧ t.cchunk = s.cchunk ∧ t.pad = s.pad
    ∧ t.reads = s.reads ∧ t.inbox = s.inbox ∧ t.draws = s.draws
    ∧ (i ≠ .init → s.initPending = false → t.arg = s.arg ∧ t.ptSel = s.ptSel)

/-- A primitive leaves every milestone as it was (R110, R259). -/
def Obligations.PrimitivesLeaveTheMilestones : Prop :=
  ∀ (i : Instr) (s t : State),
    (i = .ckReset ∨ (∃ b, i = .ckUpdate b) ∨ i = .seek ∨ i = .rdU16 ∨ i = .rdU32 ∨ ∃ n, i = .rdText n) →
    s.initPending = false → exec i s = .next t →
    t.hv = s.hv ∧ t.sv = s.sv ∧ t.tv = s.tv ∧ t.cv = s.cv ∧ t.c1 = s.c1 ∧ t.xd = s.xd

/-- Every command the host does not interrupt ends in IDLE or FAILED, or waits for an answer the host has not given
(R262, U15): at a DstOpen with no answer to DstOpen queued, or at a DstWrite with no answer to DstWrite queued. -/
def Obligations.EveryCommandEnds : Prop :=
  ∀ (i : Instr) (s t : State), s.Inv → s.phase = .idle → hostQuiet s = true → exec i s = .next t →
    t.phase = .idle ∨ t.phase = .failed
    ∨ (t.awaiting = true ∧ ∃ c, (∃ j, t.flight = some ⟨c, .part j⟩ ∧ t.openAnswers = [])
        ∨ ∃ j p rem size B, t.flight = some ⟨c, .chunkWrite j p rem size B⟩ ∧ t.writeAnswers = [])

/-! Transactions and the host's answers -/

/-- A DstOpen or DstWrite without its answer waits with nothing else changed, however long (U15); the host may supply the
answer at any time; and one answered OK, waiting or not, goes on: the name, PIDX, PROG, CUR, the event, DOPEN and the empty
destination of a DstOpen, the event, CUR, PROG and the destination's new bytes of a DstWrite (R68, R69, R185, R190). The
queues of answers and the event's coming with the answer are the model's choice (log entry 5), and so is which micro-step
makes the register updates (log entry 3). -/
def Obligations.AnsweredTransactionsGoOn : Prop :=
  (∀ (s : State) (c : Instr) (i : Nat), s.inbox = [] → s.flight = some ⟨c, .part i⟩ → i < s.pt.length →
    pdPartitionSize (s.pt.getD i []) ≠ 0#32 → s.openAnswers = [] → step s = .next { s with awaiting := true })
  ∧ (∀ (s : State) (c : Instr) (i p rem size : Nat) (B : List Byte), s.inbox = [] →
    s.flight = some ⟨c, .chunkWrite i p rem size B⟩ → s.writeAnswers = [] → step s = .next { s with awaiting := true })
  ∧ (∀ (s : State) (a : OpenAnswer) (rest : List HostAct), s.inbox = .answerOpen a :: rest →
    step s = .next { s with inbox := rest, openAnswers := s.openAnswers ++ [a] })
  ∧ (∀ (s : State) (a : WriteAnswer) (rest : List HostAct), s.inbox = .answerWrite a :: rest →
    step s = .next { s with inbox := rest, writeAnswers := s.writeAnswers ++ [a] })
  ∧ (∀ (s : State) (c : Instr) (i : Nat) (rest : List OpenAnswer), s.inbox = [] → s.initPending = false →
    s.flight = some ⟨c, .part i⟩ → i < s.pt.length → pdPartitionSize (s.pt.getD i []) ≠ 0#32 →
    s.openAnswers = .ok :: rest →
    step s = .next
      (let D := s.pt.getD i []
       let name := trimUnits s.pad (pdFileNameUnits D)
       let size := (pdPartitionSize D).toNat
       { s with awaiting := false, openAnswers := rest, pidx := indexWord i, prog := 0#7
                cur := (pdPartitionAddr D).zeroExtend 64, tbuf := pdFileNameUnits D
                tlen := BitVec.ofNat 9 name.length, ev := s.ev ++ [.dstOpen name], dopen := true
                dests := ⟨name, []⟩ :: s.dests.filter (fun d => d.name ≠ name)
                flight := some ⟨c, .chunkRead i (pdPartitionAddr D).toNat size size⟩ }))
  ∧ ∀ (s : State) (c : Instr) (i p rem size : Nat) (B : List Byte) (rest : List WriteAnswer) (d : Dest)
      (ds : List Dest), s.inbox = [] → s.initPending = false → s.flight = some ⟨c, .chunkWrite i p rem size B⟩ →
    s.writeAnswers = .ok :: rest → s.dests = d :: ds →
    step s = .next
      { s with awaiting := false, writeAnswers := rest, ev := s.ev ++ [.dstWrite B]
               dests := ⟨d.name, d.bytes ++ B⟩ :: ds, cur := BitVec.ofNat 64 (p + B.length)
               prog := BitVec.ofNat 7 (100 - 100 * (rem - B.length) / size)
               flight := some ⟨c, .progress i (p + B.length) (rem - B.length) size⟩ }
end

