-- ==== Sys2Proof/Laws/State.lean ====
section
/-! SUPPORT. One lemma per field per named update of State: what the update leaves there. -/

namespace Sys2Proof.Machine

variable (s : State)

@[simp] theorem goTo_phase (c : Instr) (st : Stage) : (goTo c st s).phase = s.phase := rfl
@[simp] theorem goTo_flight (c : Instr) (st : Stage) : (goTo c st s).flight = some ⟨c, st⟩ := rfl
@[simp] theorem goTo_awaiting (c : Instr) (st : Stage) : (goTo c st s).awaiting = s.awaiting := rfl
@[simp] theorem goTo_initPending (c : Instr) (st : Stage) : (goTo c st s).initPending = s.initPending := rfl
@[simp] theorem goTo_hv (c : Instr) (st : Stage) : (goTo c st s).hv = s.hv := rfl
@[simp] theorem goTo_sv (c : Instr) (st : Stage) : (goTo c st s).sv = s.sv := rfl
@[simp] theorem goTo_tv (c : Instr) (st : Stage) : (goTo c st s).tv = s.tv := rfl
@[simp] theorem goTo_cv (c : Instr) (st : Stage) : (goTo c st s).cv = s.cv := rfl
@[simp] theorem goTo_c1 (c : Instr) (st : Stage) : (goTo c st s).c1 = s.c1 := rfl
@[simp] theorem goTo_xd (c : Instr) (st : Stage) : (goTo c st s).xd = s.xd := rfl
@[simp] theorem goTo_ovr (c : Instr) (st : Stage) : (goTo c st s).ovr = s.ovr := rfl
@[simp] theorem goTo_held (c : Instr) (st : Stage) : (goTo c st s).held = s.held := rfl
@[simp] theorem goTo_dopen (c : Instr) (st : Stage) : (goTo c st s).dopen = s.dopen := rfl
@[simp] theorem goTo_errKind (c : Instr) (st : Stage) : (goTo c st s).errKind = s.errKind := rfl
@[simp] theorem goTo_errCause (c : Instr) (st : Stage) : (goTo c st s).errCause = s.errCause := rfl
@[simp] theorem goTo_errIdx (c : Instr) (st : Stage) : (goTo c st s).errIdx = s.errIdx := rfl
@[simp] theorem goTo_errExp (c : Instr) (st : Stage) : (goTo c st s).errExp = s.errExp := rfl
@[simp] theorem goTo_errGot (c : Instr) (st : Stage) : (goTo c st s).errGot = s.errGot := rfl
@[simp] theorem goTo_errOff (c : Instr) (st : Stage) : (goTo c st s).errOff = s.errOff := rfl
@[simp] theorem goTo_arg (c : Instr) (st : Stage) : (goTo c st s).arg = s.arg := rfl
@[simp] theorem goTo_cur (c : Instr) (st : Stage) : (goTo c st s).cur = s.cur := rfl
@[simp] theorem goTo_result (c : Instr) (st : Stage) : (goTo c st s).result = s.result := rfl
@[simp] theorem goTo_ck (c : Instr) (st : Stage) : (goTo c st s).ck = s.ck := rfl
@[simp] theorem goTo_tbuf (c : Instr) (st : Stage) : (goTo c st s).tbuf = s.tbuf := rfl
@[simp] theorem goTo_tlen (c : Instr) (st : Stage) : (goTo c st s).tlen = s.tlen := rfl
@[simp] theorem goTo_pidx (c : Instr) (st : Stage) : (goTo c st s).pidx = s.pidx := rfl
@[simp] theorem goTo_prog (c : Instr) (st : Stage) : (goTo c st s).prog = s.prog := rfl
@[simp] theorem goTo_ptSel (c : Instr) (st : Stage) : (goTo c st s).ptSel = s.ptSel := rfl
@[simp] theorem goTo_himg (c : Instr) (st : Stage) : (goTo c st s).himg = s.himg := rfl
@[simp] theorem goTo_pt (c : Instr) (st : Stage) : (goTo c st s).pt = s.pt := rfl
@[simp] theorem goTo_src (c : Instr) (st : Stage) : (goTo c st s).src = s.src := rfl
@[simp] theorem goTo_len (c : Instr) (st : Stage) : (goTo c st s).len = s.len := rfl
@[simp] theorem goTo_openAnswers (c : Instr) (st : Stage) : (goTo c st s).openAnswers = s.openAnswers := rfl
@[simp] theorem goTo_writeAnswers (c : Instr) (st : Stage) : (goTo c st s).writeAnswers = s.writeAnswers := rfl
@[simp] theorem goTo_inbox (c : Instr) (st : Stage) : (goTo c st s).inbox = s.inbox := rfl
@[simp] theorem goTo_ev (c : Instr) (st : Stage) : (goTo c st s).ev = s.ev := rfl
@[simp] theorem goTo_reads (c : Instr) (st : Stage) : (goTo c st s).reads = s.reads := rfl
@[simp] theorem goTo_dests (c : Instr) (st : Stage) : (goTo c st s).dests = s.dests := rfl
@[simp] theorem goTo_xchunk (c : Instr) (st : Stage) : (goTo c st s).xchunk = s.xchunk := rfl
@[simp] theorem goTo_cchunk (c : Instr) (st : Stage) : (goTo c st s).cchunk = s.cchunk := rfl
@[simp] theorem goTo_pad (c : Instr) (st : Stage) : (goTo c st s).pad = s.pad := rfl
@[simp] theorem goTo_draws (c : Instr) (st : Stage) : (goTo c st s).draws = s.draws := rfl

@[simp] theorem raise_phase (c : Instr) (e : ErrInfo) : (raise c e s).phase = s.phase := rfl
@[simp] theorem raise_flight (c : Instr) (e : ErrInfo) : (raise c e s).flight = some ⟨c, .raising e⟩ := rfl
@[simp] theorem raise_awaiting (c : Instr) (e : ErrInfo) : (raise c e s).awaiting = s.awaiting := rfl
@[simp] theorem raise_initPending (c : Instr) (e : ErrInfo) : (raise c e s).initPending = s.initPending := rfl
@[simp] theorem raise_hv (c : Instr) (e : ErrInfo) : (raise c e s).hv = s.hv := rfl
@[simp] theorem raise_sv (c : Instr) (e : ErrInfo) : (raise c e s).sv = s.sv := rfl
@[simp] theorem raise_tv (c : Instr) (e : ErrInfo) : (raise c e s).tv = s.tv := rfl
@[simp] theorem raise_cv (c : Instr) (e : ErrInfo) : (raise c e s).cv = s.cv := rfl
@[simp] theorem raise_c1 (c : Instr) (e : ErrInfo) : (raise c e s).c1 = s.c1 := rfl
@[simp] theorem raise_xd (c : Instr) (e : ErrInfo) : (raise c e s).xd = s.xd := rfl
@[simp] theorem raise_ovr (c : Instr) (e : ErrInfo) : (raise c e s).ovr = s.ovr := rfl
@[simp] theorem raise_held (c : Instr) (e : ErrInfo) : (raise c e s).held = s.held := rfl
@[simp] theorem raise_dopen (c : Instr) (e : ErrInfo) : (raise c e s).dopen = s.dopen := rfl
@[simp] theorem raise_errKind (c : Instr) (e : ErrInfo) : (raise c e s).errKind = s.errKind := rfl
@[simp] theorem raise_errCause (c : Instr) (e : ErrInfo) : (raise c e s).errCause = s.errCause := rfl
@[simp] theorem raise_errIdx (c : Instr) (e : ErrInfo) : (raise c e s).errIdx = s.errIdx := rfl
@[simp] theorem raise_errExp (c : Instr) (e : ErrInfo) : (raise c e s).errExp = s.errExp := rfl
@[simp] theorem raise_errGot (c : Instr) (e : ErrInfo) : (raise c e s).errGot = s.errGot := rfl
@[simp] theorem raise_errOff (c : Instr) (e : ErrInfo) : (raise c e s).errOff = s.errOff := rfl
@[simp] theorem raise_arg (c : Instr) (e : ErrInfo) : (raise c e s).arg = s.arg := rfl
@[simp] theorem raise_cur (c : Instr) (e : ErrInfo) : (raise c e s).cur = s.cur := rfl
@[simp] theorem raise_result (c : Instr) (e : ErrInfo) : (raise c e s).result = s.result := rfl
@[simp] theorem raise_ck (c : Instr) (e : ErrInfo) : (raise c e s).ck = s.ck := rfl
@[simp] theorem raise_tbuf (c : Instr) (e : ErrInfo) : (raise c e s).tbuf = s.tbuf := rfl
@[simp] theorem raise_tlen (c : Instr) (e : ErrInfo) : (raise c e s).tlen = s.tlen := rfl
@[simp] theorem raise_pidx (c : Instr) (e : ErrInfo) : (raise c e s).pidx = s.pidx := rfl
@[simp] theorem raise_prog (c : Instr) (e : ErrInfo) : (raise c e s).prog = s.prog := rfl
@[simp] theorem raise_ptSel (c : Instr) (e : ErrInfo) : (raise c e s).ptSel = s.ptSel := rfl
@[simp] theorem raise_himg (c : Instr) (e : ErrInfo) : (raise c e s).himg = s.himg := rfl
@[simp] theorem raise_pt (c : Instr) (e : ErrInfo) : (raise c e s).pt = s.pt := rfl
@[simp] theorem raise_src (c : Instr) (e : ErrInfo) : (raise c e s).src = s.src := rfl
@[simp] theorem raise_len (c : Instr) (e : ErrInfo) : (raise c e s).len = s.len := rfl
@[simp] theorem raise_openAnswers (c : Instr) (e : ErrInfo) : (raise c e s).openAnswers = s.openAnswers := rfl
@[simp] theorem raise_writeAnswers (c : Instr) (e : ErrInfo) : (raise c e s).writeAnswers = s.writeAnswers := rfl
@[simp] theorem raise_inbox (c : Instr) (e : ErrInfo) : (raise c e s).inbox = s.inbox := rfl
@[simp] theorem raise_ev (c : Instr) (e : ErrInfo) : (raise c e s).ev = s.ev := rfl
@[simp] theorem raise_reads (c : Instr) (e : ErrInfo) : (raise c e s).reads = s.reads := rfl
@[simp] theorem raise_dests (c : Instr) (e : ErrInfo) : (raise c e s).dests = s.dests := rfl
@[simp] theorem raise_xchunk (c : Instr) (e : ErrInfo) : (raise c e s).xchunk = s.xchunk := rfl
@[simp] theorem raise_cchunk (c : Instr) (e : ErrInfo) : (raise c e s).cchunk = s.cchunk := rfl
@[simp] theorem raise_pad (c : Instr) (e : ErrInfo) : (raise c e s).pad = s.pad := rfl
@[simp] theorem raise_draws (c : Instr) (e : ErrInfo) : (raise c e s).draws = s.draws := rfl

@[simp] theorem beginStage_phase (ph : Phase) (c : Instr) (st : Stage) : (beginStage ph c st s).phase = ph := rfl
@[simp] theorem beginStage_flight (ph : Phase) (c : Instr) (st : Stage) : (beginStage ph c st s).flight = some ⟨c, st⟩ := rfl
@[simp] theorem beginStage_awaiting (ph : Phase) (c : Instr) (st : Stage) : (beginStage ph c st s).awaiting = s.awaiting := rfl
@[simp] theorem beginStage_initPending (ph : Phase) (c : Instr) (st : Stage) : (beginStage ph c st s).initPending = s.initPending := rfl
@[simp] theorem beginStage_hv (ph : Phase) (c : Instr) (st : Stage) : (beginStage ph c st s).hv = s.hv := rfl
@[simp] theorem beginStage_sv (ph : Phase) (c : Instr) (st : Stage) : (beginStage ph c st s).sv = s.sv := rfl
@[simp] theorem beginStage_tv (ph : Phase) (c : Instr) (st : Stage) : (beginStage ph c st s).tv = s.tv := rfl
@[simp] theorem beginStage_cv (ph : Phase) (c : Instr) (st : Stage) : (beginStage ph c st s).cv = s.cv := rfl
@[simp] theorem beginStage_c1 (ph : Phase) (c : Instr) (st : Stage) : (beginStage ph c st s).c1 = s.c1 := rfl
@[simp] theorem beginStage_xd (ph : Phase) (c : Instr) (st : Stage) : (beginStage ph c st s).xd = s.xd := rfl
@[simp] theorem beginStage_ovr (ph : Phase) (c : Instr) (st : Stage) : (beginStage ph c st s).ovr = s.ovr := rfl
@[simp] theorem beginStage_held (ph : Phase) (c : Instr) (st : Stage) : (beginStage ph c st s).held = s.held := rfl
@[simp] theorem beginStage_dopen (ph : Phase) (c : Instr) (st : Stage) : (beginStage ph c st s).dopen = s.dopen := rfl
@[simp] theorem beginStage_errKind (ph : Phase) (c : Instr) (st : Stage) : (beginStage ph c st s).errKind = s.errKind := rfl
@[simp] theorem beginStage_errCause (ph : Phase) (c : Instr) (st : Stage) : (beginStage ph c st s).errCause = s.errCause := rfl
@[simp] theorem beginStage_errIdx (ph : Phase) (c : Instr) (st : Stage) : (beginStage ph c st s).errIdx = s.errIdx := rfl
@[simp] theorem beginStage_errExp (ph : Phase) (c : Instr) (st : Stage) : (beginStage ph c st s).errExp = s.errExp := rfl
@[simp] theorem beginStage_errGot (ph : Phase) (c : Instr) (st : Stage) : (beginStage ph c st s).errGot = s.errGot := rfl
@[simp] theorem beginStage_errOff (ph : Phase) (c : Instr) (st : Stage) : (beginStage ph c st s).errOff = s.errOff := rfl
@[simp] theorem beginStage_arg (ph : Phase) (c : Instr) (st : Stage) : (beginStage ph c st s).arg = s.arg := rfl
@[simp] theorem beginStage_cur (ph : Phase) (c : Instr) (st : Stage) : (beginStage ph c st s).cur = s.cur := rfl
@[simp] theorem beginStage_result (ph : Phase) (c : Instr) (st : Stage) : (beginStage ph c st s).result = s.result := rfl
@[simp] theorem beginStage_ck (ph : Phase) (c : Instr) (st : Stage) : (beginStage ph c st s).ck = s.ck := rfl
@[simp] theorem beginStage_tbuf (ph : Phase) (c : Instr) (st : Stage) : (beginStage ph c st s).tbuf = s.tbuf := rfl
@[simp] theorem beginStage_tlen (ph : Phase) (c : Instr) (st : Stage) : (beginStage ph c st s).tlen = s.tlen := rfl
@[simp] theorem beginStage_pidx (ph : Phase) (c : Instr) (st : Stage) : (beginStage ph c st s).pidx = s.pidx := rfl
@[simp] theorem beginStage_prog (ph : Phase) (c : Instr) (st : Stage) : (beginStage ph c st s).prog = s.prog := rfl
@[simp] theorem beginStage_ptSel (ph : Phase) (c : Instr) (st : Stage) : (beginStage ph c st s).ptSel = s.ptSel := rfl
@[simp] theorem beginStage_himg (ph : Phase) (c : Instr) (st : Stage) : (beginStage ph c st s).himg = s.himg := rfl
@[simp] theorem beginStage_pt (ph : Phase) (c : Instr) (st : Stage) : (beginStage ph c st s).pt = s.pt := rfl
@[simp] theorem beginStage_src (ph : Phase) (c : Instr) (st : Stage) : (beginStage ph c st s).src = s.src := rfl
@[simp] theorem beginStage_len (ph : Phase) (c : Instr) (st : Stage) : (beginStage ph c st s).len = s.len := rfl
@[simp] theorem beginStage_openAnswers (ph : Phase) (c : Instr) (st : Stage) : (beginStage ph c st s).openAnswers = s.openAnswers := rfl
@[simp] theorem beginStage_writeAnswers (ph : Phase) (c : Instr) (st : Stage) : (beginStage ph c st s).writeAnswers = s.writeAnswers := rfl
@[simp] theorem beginStage_inbox (ph : Phase) (c : Instr) (st : Stage) : (beginStage ph c st s).inbox = s.inbox := rfl
@[simp] theorem beginStage_ev (ph : Phase) (c : Instr) (st : Stage) : (beginStage ph c st s).ev = s.ev := rfl
@[simp] theorem beginStage_reads (ph : Phase) (c : Instr) (st : Stage) : (beginStage ph c st s).reads = s.reads := rfl
@[simp] theorem beginStage_dests (ph : Phase) (c : Instr) (st : Stage) : (beginStage ph c st s).dests = s.dests := rfl
@[simp] theorem beginStage_xchunk (ph : Phase) (c : Instr) (st : Stage) : (beginStage ph c st s).xchunk = s.xchunk := rfl
@[simp] theorem beginStage_cchunk (ph : Phase) (c : Instr) (st : Stage) : (beginStage ph c st s).cchunk = s.cchunk := rfl
@[simp] theorem beginStage_pad (ph : Phase) (c : Instr) (st : Stage) : (beginStage ph c st s).pad = s.pad := rfl
@[simp] theorem beginStage_draws (ph : Phase) (c : Instr) (st : Stage) : (beginStage ph c st s).draws = s.draws := rfl

@[simp] theorem complete_phase : (complete s).phase = .idle := rfl
@[simp] theorem complete_flight : (complete s).flight = none := rfl
@[simp] theorem complete_awaiting : (complete s).awaiting = s.awaiting := rfl
@[simp] theorem complete_initPending : (complete s).initPending = s.initPending := rfl
@[simp] theorem complete_hv : (complete s).hv = s.hv := rfl
@[simp] theorem complete_sv : (complete s).sv = s.sv := rfl
@[simp] theorem complete_tv : (complete s).tv = s.tv := rfl
@[simp] theorem complete_cv : (complete s).cv = s.cv := rfl
@[simp] theorem complete_c1 : (complete s).c1 = s.c1 := rfl
@[simp] theorem complete_xd : (complete s).xd = s.xd := rfl
@[simp] theorem complete_ovr : (complete s).ovr = s.ovr := rfl
@[simp] theorem complete_held : (complete s).held = s.held := rfl
@[simp] theorem complete_dopen : (complete s).dopen = s.dopen := rfl
@[simp] theorem complete_errKind : (complete s).errKind = s.errKind := rfl
@[simp] theorem complete_errCause : (complete s).errCause = s.errCause := rfl
@[simp] theorem complete_errIdx : (complete s).errIdx = s.errIdx := rfl
@[simp] theorem complete_errExp : (complete s).errExp = s.errExp := rfl
@[simp] theorem complete_errGot : (complete s).errGot = s.errGot := rfl
@[simp] theorem complete_errOff : (complete s).errOff = s.errOff := rfl
@[simp] theorem complete_arg : (complete s).arg = s.arg := rfl
@[simp] theorem complete_cur : (complete s).cur = s.cur := rfl
@[simp] theorem complete_result : (complete s).result = s.result := rfl
@[simp] theorem complete_ck : (complete s).ck = s.ck := rfl
@[simp] theorem complete_tbuf : (complete s).tbuf = s.tbuf := rfl
@[simp] theorem complete_tlen : (complete s).tlen = s.tlen := rfl
@[simp] theorem complete_pidx : (complete s).pidx = s.pidx := rfl
@[simp] theorem complete_prog : (complete s).prog = s.prog := rfl
@[simp] theorem complete_ptSel : (complete s).ptSel = s.ptSel := rfl
@[simp] theorem complete_himg : (complete s).himg = s.himg := rfl
@[simp] theorem complete_pt : (complete s).pt = s.pt := rfl
@[simp] theorem complete_src : (complete s).src = s.src := rfl
@[simp] theorem complete_len : (complete s).len = s.len := rfl
@[simp] theorem complete_openAnswers : (complete s).openAnswers = s.openAnswers := rfl
@[simp] theorem complete_writeAnswers : (complete s).writeAnswers = s.writeAnswers := rfl
@[simp] theorem complete_inbox : (complete s).inbox = s.inbox := rfl
@[simp] theorem complete_ev : (complete s).ev = s.ev := rfl
@[simp] theorem complete_reads : (complete s).reads = s.reads := rfl
@[simp] theorem complete_dests : (complete s).dests = s.dests := rfl
@[simp] theorem complete_xchunk : (complete s).xchunk = s.xchunk := rfl
@[simp] theorem complete_cchunk : (complete s).cchunk = s.cchunk := rfl
@[simp] theorem complete_pad : (complete s).pad = s.pad := rfl
@[simp] theorem complete_draws : (complete s).draws = s.draws := rfl

@[simp] theorem emit_phase (e : Event) : (emit e s).phase = s.phase := rfl
@[simp] theorem emit_flight (e : Event) : (emit e s).flight = s.flight := rfl
@[simp] theorem emit_awaiting (e : Event) : (emit e s).awaiting = s.awaiting := rfl
@[simp] theorem emit_initPending (e : Event) : (emit e s).initPending = s.initPending := rfl
@[simp] theorem emit_hv (e : Event) : (emit e s).hv = s.hv := rfl
@[simp] theorem emit_sv (e : Event) : (emit e s).sv = s.sv := rfl
@[simp] theorem emit_tv (e : Event) : (emit e s).tv = s.tv := rfl
@[simp] theorem emit_cv (e : Event) : (emit e s).cv = s.cv := rfl
@[simp] theorem emit_c1 (e : Event) : (emit e s).c1 = s.c1 := rfl
@[simp] theorem emit_xd (e : Event) : (emit e s).xd = s.xd := rfl
@[simp] theorem emit_ovr (e : Event) : (emit e s).ovr = s.ovr := rfl
@[simp] theorem emit_held (e : Event) : (emit e s).held = s.held := rfl
@[simp] theorem emit_dopen (e : Event) : (emit e s).dopen = s.dopen := rfl
@[simp] theorem emit_errKind (e : Event) : (emit e s).errKind = s.errKind := rfl
@[simp] theorem emit_errCause (e : Event) : (emit e s).errCause = s.errCause := rfl
@[simp] theorem emit_errIdx (e : Event) : (emit e s).errIdx = s.errIdx := rfl
@[simp] theorem emit_errExp (e : Event) : (emit e s).errExp = s.errExp := rfl
@[simp] theorem emit_errGot (e : Event) : (emit e s).errGot = s.errGot := rfl
@[simp] theorem emit_errOff (e : Event) : (emit e s).errOff = s.errOff := rfl
@[simp] theorem emit_arg (e : Event) : (emit e s).arg = s.arg := rfl
@[simp] theorem emit_cur (e : Event) : (emit e s).cur = s.cur := rfl
@[simp] theorem emit_result (e : Event) : (emit e s).result = s.result := rfl
@[simp] theorem emit_ck (e : Event) : (emit e s).ck = s.ck := rfl
@[simp] theorem emit_tbuf (e : Event) : (emit e s).tbuf = s.tbuf := rfl
@[simp] theorem emit_tlen (e : Event) : (emit e s).tlen = s.tlen := rfl
@[simp] theorem emit_pidx (e : Event) : (emit e s).pidx = s.pidx := rfl
@[simp] theorem emit_prog (e : Event) : (emit e s).prog = s.prog := rfl
@[simp] theorem emit_ptSel (e : Event) : (emit e s).ptSel = s.ptSel := rfl
@[simp] theorem emit_himg (e : Event) : (emit e s).himg = s.himg := rfl
@[simp] theorem emit_pt (e : Event) : (emit e s).pt = s.pt := rfl
@[simp] theorem emit_src (e : Event) : (emit e s).src = s.src := rfl
@[simp] theorem emit_len (e : Event) : (emit e s).len = s.len := rfl
@[simp] theorem emit_openAnswers (e : Event) : (emit e s).openAnswers = s.openAnswers := rfl
@[simp] theorem emit_writeAnswers (e : Event) : (emit e s).writeAnswers = s.writeAnswers := rfl
@[simp] theorem emit_inbox (e : Event) : (emit e s).inbox = s.inbox := rfl
@[simp] theorem emit_ev (e : Event) : (emit e s).ev = s.ev ++ [e] := rfl
@[simp] theorem emit_reads (e : Event) : (emit e s).reads = s.reads := rfl
@[simp] theorem emit_dests (e : Event) : (emit e s).dests = s.dests := rfl
@[simp] theorem emit_xchunk (e : Event) : (emit e s).xchunk = s.xchunk := rfl
@[simp] theorem emit_cchunk (e : Event) : (emit e s).cchunk = s.cchunk := rfl
@[simp] theorem emit_pad (e : Event) : (emit e s).pad = s.pad := rfl
@[simp] theorem emit_draws (e : Event) : (emit e s).draws = s.draws := rfl

@[simp] theorem setCursor_phase (o : Nat) : (setCursor o s).phase = s.phase := rfl
@[simp] theorem setCursor_flight (o : Nat) : (setCursor o s).flight = s.flight := rfl
@[simp] theorem setCursor_awaiting (o : Nat) : (setCursor o s).awaiting = s.awaiting := rfl
@[simp] theorem setCursor_initPending (o : Nat) : (setCursor o s).initPending = s.initPending := rfl
@[simp] theorem setCursor_hv (o : Nat) : (setCursor o s).hv = s.hv := rfl
@[simp] theorem setCursor_sv (o : Nat) : (setCursor o s).sv = s.sv := rfl
@[simp] theorem setCursor_tv (o : Nat) : (setCursor o s).tv = s.tv := rfl
@[simp] theorem setCursor_cv (o : Nat) : (setCursor o s).cv = s.cv := rfl
@[simp] theorem setCursor_c1 (o : Nat) : (setCursor o s).c1 = s.c1 := rfl
@[simp] theorem setCursor_xd (o : Nat) : (setCursor o s).xd = s.xd := rfl
@[simp] theorem setCursor_ovr (o : Nat) : (setCursor o s).ovr = s.ovr := rfl
@[simp] theorem setCursor_held (o : Nat) : (setCursor o s).held = s.held := rfl
@[simp] theorem setCursor_dopen (o : Nat) : (setCursor o s).dopen = s.dopen := rfl
@[simp] theorem setCursor_errKind (o : Nat) : (setCursor o s).errKind = s.errKind := rfl
@[simp] theorem setCursor_errCause (o : Nat) : (setCursor o s).errCause = s.errCause := rfl
@[simp] theorem setCursor_errIdx (o : Nat) : (setCursor o s).errIdx = s.errIdx := rfl
@[simp] theorem setCursor_errExp (o : Nat) : (setCursor o s).errExp = s.errExp := rfl
@[simp] theorem setCursor_errGot (o : Nat) : (setCursor o s).errGot = s.errGot := rfl
@[simp] theorem setCursor_errOff (o : Nat) : (setCursor o s).errOff = s.errOff := rfl
@[simp] theorem setCursor_arg (o : Nat) : (setCursor o s).arg = s.arg := rfl
@[simp] theorem setCursor_cur (o : Nat) : (setCursor o s).cur = BitVec.ofNat 64 o := rfl
@[simp] theorem setCursor_result (o : Nat) : (setCursor o s).result = s.result := rfl
@[simp] theorem setCursor_ck (o : Nat) : (setCursor o s).ck = s.ck := rfl
@[simp] theorem setCursor_tbuf (o : Nat) : (setCursor o s).tbuf = s.tbuf := rfl
@[simp] theorem setCursor_tlen (o : Nat) : (setCursor o s).tlen = s.tlen := rfl
@[simp] theorem setCursor_pidx (o : Nat) : (setCursor o s).pidx = s.pidx := rfl
@[simp] theorem setCursor_prog (o : Nat) : (setCursor o s).prog = s.prog := rfl
@[simp] theorem setCursor_ptSel (o : Nat) : (setCursor o s).ptSel = s.ptSel := rfl
@[simp] theorem setCursor_himg (o : Nat) : (setCursor o s).himg = s.himg := rfl
@[simp] theorem setCursor_pt (o : Nat) : (setCursor o s).pt = s.pt := rfl
@[simp] theorem setCursor_src (o : Nat) : (setCursor o s).src = s.src := rfl
@[simp] theorem setCursor_len (o : Nat) : (setCursor o s).len = s.len := rfl
@[simp] theorem setCursor_openAnswers (o : Nat) : (setCursor o s).openAnswers = s.openAnswers := rfl
@[simp] theorem setCursor_writeAnswers (o : Nat) : (setCursor o s).writeAnswers = s.writeAnswers := rfl
@[simp] theorem setCursor_inbox (o : Nat) : (setCursor o s).inbox = s.inbox := rfl
@[simp] theorem setCursor_ev (o : Nat) : (setCursor o s).ev = s.ev := rfl
@[simp] theorem setCursor_reads (o : Nat) : (setCursor o s).reads = s.reads := rfl
@[simp] theorem setCursor_dests (o : Nat) : (setCursor o s).dests = s.dests := rfl
@[simp] theorem setCursor_xchunk (o : Nat) : (setCursor o s).xchunk = s.xchunk := rfl
@[simp] theorem setCursor_cchunk (o : Nat) : (setCursor o s).cchunk = s.cchunk := rfl
@[simp] theorem setCursor_pad (o : Nat) : (setCursor o s).pad = s.pad := rfl
@[simp] theorem setCursor_draws (o : Nat) : (setCursor o s).draws = s.draws := rfl

@[simp] theorem setText_phase (U : List CodeUnit) : (setText U s).phase = s.phase := rfl
@[simp] theorem setText_flight (U : List CodeUnit) : (setText U s).flight = s.flight := rfl
@[simp] theorem setText_awaiting (U : List CodeUnit) : (setText U s).awaiting = s.awaiting := rfl
@[simp] theorem setText_initPending (U : List CodeUnit) : (setText U s).initPending = s.initPending := rfl
@[simp] theorem setText_hv (U : List CodeUnit) : (setText U s).hv = s.hv := rfl
@[simp] theorem setText_sv (U : List CodeUnit) : (setText U s).sv = s.sv := rfl
@[simp] theorem setText_tv (U : List CodeUnit) : (setText U s).tv = s.tv := rfl
@[simp] theorem setText_cv (U : List CodeUnit) : (setText U s).cv = s.cv := rfl
@[simp] theorem setText_c1 (U : List CodeUnit) : (setText U s).c1 = s.c1 := rfl
@[simp] theorem setText_xd (U : List CodeUnit) : (setText U s).xd = s.xd := rfl
@[simp] theorem setText_ovr (U : List CodeUnit) : (setText U s).ovr = s.ovr := rfl
@[simp] theorem setText_held (U : List CodeUnit) : (setText U s).held = s.held := rfl
@[simp] theorem setText_dopen (U : List CodeUnit) : (setText U s).dopen = s.dopen := rfl
@[simp] theorem setText_errKind (U : List CodeUnit) : (setText U s).errKind = s.errKind := rfl
@[simp] theorem setText_errCause (U : List CodeUnit) : (setText U s).errCause = s.errCause := rfl
@[simp] theorem setText_errIdx (U : List CodeUnit) : (setText U s).errIdx = s.errIdx := rfl
@[simp] theorem setText_errExp (U : List CodeUnit) : (setText U s).errExp = s.errExp := rfl
@[simp] theorem setText_errGot (U : List CodeUnit) : (setText U s).errGot = s.errGot := rfl
@[simp] theorem setText_errOff (U : List CodeUnit) : (setText U s).errOff = s.errOff := rfl
@[simp] theorem setText_arg (U : List CodeUnit) : (setText U s).arg = s.arg := rfl
@[simp] theorem setText_cur (U : List CodeUnit) : (setText U s).cur = s.cur := rfl
@[simp] theorem setText_result (U : List CodeUnit) : (setText U s).result = s.result := rfl
@[simp] theorem setText_ck (U : List CodeUnit) : (setText U s).ck = s.ck := rfl
@[simp] theorem setText_tbuf (U : List CodeUnit) : (setText U s).tbuf = U ++ zeroUnits (256 - U.length) := rfl
@[simp] theorem setText_tlen (U : List CodeUnit) : (setText U s).tlen = BitVec.ofNat 9 (trimUnits s.pad U).length := rfl
@[simp] theorem setText_pidx (U : List CodeUnit) : (setText U s).pidx = s.pidx := rfl
@[simp] theorem setText_prog (U : List CodeUnit) : (setText U s).prog = s.prog := rfl
@[simp] theorem setText_ptSel (U : List CodeUnit) : (setText U s).ptSel = s.ptSel := rfl
@[simp] theorem setText_himg (U : List CodeUnit) : (setText U s).himg = s.himg := rfl
@[simp] theorem setText_pt (U : List CodeUnit) : (setText U s).pt = s.pt := rfl
@[simp] theorem setText_src (U : List CodeUnit) : (setText U s).src = s.src := rfl
@[simp] theorem setText_len (U : List CodeUnit) : (setText U s).len = s.len := rfl
@[simp] theorem setText_openAnswers (U : List CodeUnit) : (setText U s).openAnswers = s.openAnswers := rfl
@[simp] theorem setText_writeAnswers (U : List CodeUnit) : (setText U s).writeAnswers = s.writeAnswers := rfl
@[simp] theorem setText_inbox (U : List CodeUnit) : (setText U s).inbox = s.inbox := rfl
@[simp] theorem setText_ev (U : List CodeUnit) : (setText U s).ev = s.ev := rfl
@[simp] theorem setText_reads (U : List CodeUnit) : (setText U s).reads = s.reads := rfl
@[simp] theorem setText_dests (U : List CodeUnit) : (setText U s).dests = s.dests := rfl
@[simp] theorem setText_xchunk (U : List CodeUnit) : (setText U s).xchunk = s.xchunk := rfl
@[simp] theorem setText_cchunk (U : List CodeUnit) : (setText U s).cchunk = s.cchunk := rfl
@[simp] theorem setText_pad (U : List CodeUnit) : (setText U s).pad = s.pad := rfl
@[simp] theorem setText_draws (U : List CodeUnit) : (setText U s).draws = s.draws := rfl

@[simp] theorem clearMilestones_phase : (clearMilestones s).phase = s.phase := rfl
@[simp] theorem clearMilestones_flight : (clearMilestones s).flight = s.flight := rfl
@[simp] theorem clearMilestones_awaiting : (clearMilestones s).awaiting = s.awaiting := rfl
@[simp] theorem clearMilestones_initPending : (clearMilestones s).initPending = s.initPending := rfl
@[simp] theorem clearMilestones_hv : (clearMilestones s).hv = false := rfl
@[simp] theorem clearMilestones_sv : (clearMilestones s).sv = false := rfl
@[simp] theorem clearMilestones_tv : (clearMilestones s).tv = false := rfl
@[simp] theorem clearMilestones_cv : (clearMilestones s).cv = false := rfl
@[simp] theorem clearMilestones_c1 : (clearMilestones s).c1 = false := rfl
@[simp] theorem clearMilestones_xd : (clearMilestones s).xd = false := rfl
@[simp] theorem clearMilestones_ovr : (clearMilestones s).ovr = s.ovr := rfl
@[simp] theorem clearMilestones_held : (clearMilestones s).held = s.held := rfl
@[simp] theorem clearMilestones_dopen : (clearMilestones s).dopen = s.dopen := rfl
@[simp] theorem clearMilestones_errKind : (clearMilestones s).errKind = s.errKind := rfl
@[simp] theorem clearMilestones_errCause : (clearMilestones s).errCause = s.errCause := rfl
@[simp] theorem clearMilestones_errIdx : (clearMilestones s).errIdx = s.errIdx := rfl
@[simp] theorem clearMilestones_errExp : (clearMilestones s).errExp = s.errExp := rfl
@[simp] theorem clearMilestones_errGot : (clearMilestones s).errGot = s.errGot := rfl
@[simp] theorem clearMilestones_errOff : (clearMilestones s).errOff = s.errOff := rfl
@[simp] theorem clearMilestones_arg : (clearMilestones s).arg = s.arg := rfl
@[simp] theorem clearMilestones_cur : (clearMilestones s).cur = s.cur := rfl
@[simp] theorem clearMilestones_result : (clearMilestones s).result = s.result := rfl
@[simp] theorem clearMilestones_ck : (clearMilestones s).ck = s.ck := rfl
@[simp] theorem clearMilestones_tbuf : (clearMilestones s).tbuf = s.tbuf := rfl
@[simp] theorem clearMilestones_tlen : (clearMilestones s).tlen = s.tlen := rfl
@[simp] theorem clearMilestones_pidx : (clearMilestones s).pidx = s.pidx := rfl
@[simp] theorem clearMilestones_prog : (clearMilestones s).prog = s.prog := rfl
@[simp] theorem clearMilestones_ptSel : (clearMilestones s).ptSel = s.ptSel := rfl
@[simp] theorem clearMilestones_himg : (clearMilestones s).himg = s.himg := rfl
@[simp] theorem clearMilestones_pt : (clearMilestones s).pt = s.pt := rfl
@[simp] theorem clearMilestones_src : (clearMilestones s).src = s.src := rfl
@[simp] theorem clearMilestones_len : (clearMilestones s).len = s.len := rfl
@[simp] theorem clearMilestones_openAnswers : (clearMilestones s).openAnswers = s.openAnswers := rfl
@[simp] theorem clearMilestones_writeAnswers : (clearMilestones s).writeAnswers = s.writeAnswers := rfl
@[simp] theorem clearMilestones_inbox : (clearMilestones s).inbox = s.inbox := rfl
@[simp] theorem clearMilestones_ev : (clearMilestones s).ev = s.ev := rfl
@[simp] theorem clearMilestones_reads : (clearMilestones s).reads = s.reads := rfl
@[simp] theorem clearMilestones_dests : (clearMilestones s).dests = s.dests := rfl
@[simp] theorem clearMilestones_xchunk : (clearMilestones s).xchunk = s.xchunk := rfl
@[simp] theorem clearMilestones_cchunk : (clearMilestones s).cchunk = s.cchunk := rfl
@[simp] theorem clearMilestones_pad : (clearMilestones s).pad = s.pad := rfl
@[simp] theorem clearMilestones_draws : (clearMilestones s).draws = s.draws := rfl

@[simp] theorem latchError_phase (e : ErrInfo) : (latchError e s).phase = .failed := rfl
@[simp] theorem latchError_flight (e : ErrInfo) : (latchError e s).flight = none := rfl
@[simp] theorem latchError_awaiting (e : ErrInfo) : (latchError e s).awaiting = s.awaiting := rfl
@[simp] theorem latchError_initPending (e : ErrInfo) : (latchError e s).initPending = s.initPending := rfl
@[simp] theorem latchError_hv (e : ErrInfo) : (latchError e s).hv = s.hv := rfl
@[simp] theorem latchError_sv (e : ErrInfo) : (latchError e s).sv = s.sv := rfl
@[simp] theorem latchError_tv (e : ErrInfo) : (latchError e s).tv = s.tv := rfl
@[simp] theorem latchError_cv (e : ErrInfo) : (latchError e s).cv = s.cv := rfl
@[simp] theorem latchError_c1 (e : ErrInfo) : (latchError e s).c1 = s.c1 := rfl
@[simp] theorem latchError_xd (e : ErrInfo) : (latchError e s).xd = s.xd := rfl
@[simp] theorem latchError_ovr (e : ErrInfo) : (latchError e s).ovr = s.ovr := rfl
@[simp] theorem latchError_held (e : ErrInfo) : (latchError e s).held = s.held := rfl
@[simp] theorem latchError_dopen (e : ErrInfo) : (latchError e s).dopen = s.dopen := rfl
@[simp] theorem latchError_errKind (e : ErrInfo) : (latchError e s).errKind = e.cause.kind := rfl
@[simp] theorem latchError_errCause (e : ErrInfo) : (latchError e s).errCause = e.cause := rfl
@[simp] theorem latchError_errIdx (e : ErrInfo) : (latchError e s).errIdx = e.idx := rfl
@[simp] theorem latchError_errExp (e : ErrInfo) : (latchError e s).errExp = e.exp := rfl
@[simp] theorem latchError_errGot (e : ErrInfo) : (latchError e s).errGot = e.got := rfl
@[simp] theorem latchError_errOff (e : ErrInfo) : (latchError e s).errOff = e.off := rfl
@[simp] theorem latchError_arg (e : ErrInfo) : (latchError e s).arg = s.arg := rfl
@[simp] theorem latchError_cur (e : ErrInfo) : (latchError e s).cur = s.cur := rfl
@[simp] theorem latchError_result (e : ErrInfo) : (latchError e s).result = s.result := rfl
@[simp] theorem latchError_ck (e : ErrInfo) : (latchError e s).ck = s.ck := rfl
@[simp] theorem latchError_tbuf (e : ErrInfo) : (latchError e s).tbuf = s.tbuf := rfl
@[simp] theorem latchError_tlen (e : ErrInfo) : (latchError e s).tlen = s.tlen := rfl
@[simp] theorem latchError_pidx (e : ErrInfo) : (latchError e s).pidx = s.pidx := rfl
@[simp] theorem latchError_prog (e : ErrInfo) : (latchError e s).prog = s.prog := rfl
@[simp] theorem latchError_ptSel (e : ErrInfo) : (latchError e s).ptSel = s.ptSel := rfl
@[simp] theorem latchError_himg (e : ErrInfo) : (latchError e s).himg = s.himg := rfl
@[simp] theorem latchError_pt (e : ErrInfo) : (latchError e s).pt = s.pt := rfl
@[simp] theorem latchError_src (e : ErrInfo) : (latchError e s).src = s.src := rfl
@[simp] theorem latchError_len (e : ErrInfo) : (latchError e s).len = s.len := rfl
@[simp] theorem latchError_openAnswers (e : ErrInfo) : (latchError e s).openAnswers = s.openAnswers := rfl
@[simp] theorem latchError_writeAnswers (e : ErrInfo) : (latchError e s).writeAnswers = s.writeAnswers := rfl
@[simp] theorem latchError_inbox (e : ErrInfo) : (latchError e s).inbox = s.inbox := rfl
@[simp] theorem latchError_ev (e : ErrInfo) : (latchError e s).ev = s.ev := rfl
@[simp] theorem latchError_reads (e : ErrInfo) : (latchError e s).reads = s.reads := rfl
@[simp] theorem latchError_dests (e : ErrInfo) : (latchError e s).dests = s.dests := rfl
@[simp] theorem latchError_xchunk (e : ErrInfo) : (latchError e s).xchunk = s.xchunk := rfl
@[simp] theorem latchError_cchunk (e : ErrInfo) : (latchError e s).cchunk = s.cchunk := rfl
@[simp] theorem latchError_pad (e : ErrInfo) : (latchError e s).pad = s.pad := rfl
@[simp] theorem latchError_draws (e : ErrInfo) : (latchError e s).draws = s.draws := rfl

@[simp] theorem refuseBusy_phase : (refuseBusy s).phase = s.phase := rfl
@[simp] theorem refuseBusy_flight : (refuseBusy s).flight = s.flight := rfl
@[simp] theorem refuseBusy_awaiting : (refuseBusy s).awaiting = s.awaiting := rfl
@[simp] theorem refuseBusy_initPending : (refuseBusy s).initPending = s.initPending := rfl
@[simp] theorem refuseBusy_hv : (refuseBusy s).hv = s.hv := rfl
@[simp] theorem refuseBusy_sv : (refuseBusy s).sv = s.sv := rfl
@[simp] theorem refuseBusy_tv : (refuseBusy s).tv = s.tv := rfl
@[simp] theorem refuseBusy_cv : (refuseBusy s).cv = s.cv := rfl
@[simp] theorem refuseBusy_c1 : (refuseBusy s).c1 = s.c1 := rfl
@[simp] theorem refuseBusy_xd : (refuseBusy s).xd = s.xd := rfl
@[simp] theorem refuseBusy_ovr : (refuseBusy s).ovr = true := rfl
@[simp] theorem refuseBusy_held : (refuseBusy s).held = s.held := rfl
@[simp] theorem refuseBusy_dopen : (refuseBusy s).dopen = s.dopen := rfl
@[simp] theorem refuseBusy_errKind : (refuseBusy s).errKind = s.errKind := rfl
@[simp] theorem refuseBusy_errCause : (refuseBusy s).errCause = s.errCause := rfl
@[simp] theorem refuseBusy_errIdx : (refuseBusy s).errIdx = s.errIdx := rfl
@[simp] theorem refuseBusy_errExp : (refuseBusy s).errExp = s.errExp := rfl
@[simp] theorem refuseBusy_errGot : (refuseBusy s).errGot = s.errGot := rfl
@[simp] theorem refuseBusy_errOff : (refuseBusy s).errOff = s.errOff := rfl
@[simp] theorem refuseBusy_arg : (refuseBusy s).arg = s.arg := rfl
@[simp] theorem refuseBusy_cur : (refuseBusy s).cur = s.cur := rfl
@[simp] theorem refuseBusy_result : (refuseBusy s).result = s.result := rfl
@[simp] theorem refuseBusy_ck : (refuseBusy s).ck = s.ck := rfl
@[simp] theorem refuseBusy_tbuf : (refuseBusy s).tbuf = s.tbuf := rfl
@[simp] theorem refuseBusy_tlen : (refuseBusy s).tlen = s.tlen := rfl
@[simp] theorem refuseBusy_pidx : (refuseBusy s).pidx = s.pidx := rfl
@[simp] theorem refuseBusy_prog : (refuseBusy s).prog = s.prog := rfl
@[simp] theorem refuseBusy_ptSel : (refuseBusy s).ptSel = s.ptSel := rfl
@[simp] theorem refuseBusy_himg : (refuseBusy s).himg = s.himg := rfl
@[simp] theorem refuseBusy_pt : (refuseBusy s).pt = s.pt := rfl
@[simp] theorem refuseBusy_src : (refuseBusy s).src = s.src := rfl
@[simp] theorem refuseBusy_len : (refuseBusy s).len = s.len := rfl
@[simp] theorem refuseBusy_openAnswers : (refuseBusy s).openAnswers = s.openAnswers := rfl
@[simp] theorem refuseBusy_writeAnswers : (refuseBusy s).writeAnswers = s.writeAnswers := rfl
@[simp] theorem refuseBusy_inbox : (refuseBusy s).inbox = s.inbox := rfl
@[simp] theorem refuseBusy_ev : (refuseBusy s).ev = s.ev := rfl
@[simp] theorem refuseBusy_reads : (refuseBusy s).reads = s.reads := rfl
@[simp] theorem refuseBusy_dests : (refuseBusy s).dests = s.dests := rfl
@[simp] theorem refuseBusy_xchunk : (refuseBusy s).xchunk = s.xchunk := rfl
@[simp] theorem refuseBusy_cchunk : (refuseBusy s).cchunk = s.cchunk := rfl
@[simp] theorem refuseBusy_pad : (refuseBusy s).pad = s.pad := rfl
@[simp] theorem refuseBusy_draws : (refuseBusy s).draws = s.draws := rfl

end Sys2Proof.Machine
end

