-- ==== Sys2Proof/Laws/Ops.lean ====
section
/-! SUPPORT. What each shared operation can do, said once: the source space and its canonical form, MemRead, the error
entry, and the resets. -/

namespace Sys2Proof.Machine

/-! The source space -/

theorem Memory.wfFrom_mono {lo lo' : Nat} (h : lo' ≤ lo) :
    ∀ {m : Memory}, Memory.wfFrom lo m = true → Memory.wfFrom lo' m = true
  | [], _ => rfl
  | (k, b) :: m, hm => by
    simp only [Memory.wfFrom, Bool.and_eq_true, decide_eq_true_eq] at hm ⊢
    exact ⟨⟨by omega, hm.1.2⟩, hm.2⟩

/-- Below the first offset of a canonical source every byte is 0x00. -/
theorem Memory.byteAt_below {lo a : Nat} (h : a < lo) :
    ∀ {m : Memory}, Memory.wfFrom lo m = true → m.byteAt a = 0#8
  | [], _ => rfl
  | (k, b) :: m, hm => by
    simp only [Memory.wfFrom, Bool.and_eq_true, decide_eq_true_eq] at hm
    have hk : k ≠ a := by omega
    simp only [Memory.byteAt, hk, if_false]
    exact Memory.byteAt_below (lo := k + 1) (by omega) hm.2

/-- A changed byte reads back, and every other byte is as it was. -/
theorem Memory.byteAt_set (a c : Nat) (v : Byte) :
    ∀ {m : Memory} {lo : Nat}, Memory.wfFrom lo m = true →
      (Memory.set m a v).byteAt c = if c = a then v else m.byteAt c
  | [], _, _ => by
    by_cases hc : c = a
    · by_cases hv : v = 0#8 <;> simp [Memory.set, Memory.byteAt, hv, hc]
    · by_cases hv : v = 0#8 <;> simp [Memory.set, Memory.byteAt, hv, hc, Ne.symm hc]
  | (k, b) :: m, lo, hm => by
    simp only [Memory.wfFrom, Bool.and_eq_true, decide_eq_true_eq] at hm
    have ih := Memory.byteAt_set a c v hm.2
    simp only [Memory.set]
    by_cases h1 : a < k
    · by_cases hv : v = 0#8 <;> by_cases hc : c = a <;>
        simp [h1, hv, hc, Memory.byteAt, eq_comm (a := a)]
      · subst hc
        rw [if_neg (by omega)]
        exact Memory.byteAt_below (lo := k + 1) (by omega) hm.2
    · by_cases h2 : a = k
      · subst h2
        by_cases hv : v = 0#8 <;> by_cases hc : c = a <;>
          simp [hv, hc, Memory.byteAt, eq_comm (a := a)]
        · subst hc
          exact Memory.byteAt_below (lo := c + 1) (by omega) hm.2
      · simp only [h1, h2, if_false, Memory.byteAt, ih]
        by_cases hk : k = c
        · simp [hk, show ¬ c = a from fun h => h2 (by omega)]
        · simp [hk]

/-- A changed byte keeps the canonical form. -/
theorem Memory.set_keeps_wfFrom (a : Nat) (v : Byte) :
    ∀ {m : Memory} {lo : Nat}, lo ≤ a → Memory.wfFrom lo m = true → Memory.wfFrom lo (Memory.set m a v) = true
  | [], lo, h, _ => by
    by_cases hv : v = 0#8 <;> simp [Memory.set, Memory.wfFrom, hv, h]
  | (k, b) :: m, lo, h, hm => by
    have hm' := hm
    simp only [Memory.wfFrom, Bool.and_eq_true, decide_eq_true_eq] at hm
    simp only [Memory.set]
    by_cases h1 : a < k
    · by_cases hv : v = 0#8
      · simpa [h1, hv] using hm'
      · simp only [h1, hv, if_true, if_false, Memory.wfFrom, Bool.and_eq_true, decide_eq_true_eq]
        exact ⟨⟨h, hv⟩, ⟨by omega, hm.1.2⟩, hm.2⟩
    · by_cases h2 : a = k
      · subst h2
        by_cases hv : v = 0#8
        · simpa [hv] using Memory.wfFrom_mono (by omega) hm.2
        · simpa [hv, Memory.wfFrom, h] using hm.2
      · simp only [h1, h2, if_false, Memory.wfFrom, Bool.and_eq_true, decide_eq_true_eq]
        exact ⟨hm.1, Memory.set_keeps_wfFrom a v (by omega) hm.2⟩

/-- A changed byte keeps the canonical form of the whole source. -/
theorem Memory.set_keeps_wf {m : Memory} (a : Nat) (v : Byte) (h : m.wf = true) : (Memory.set m a v).wf = true :=
  Memory.set_keeps_wfFrom a v (Nat.zero_le a) h

/-- The offsets listed after a change are the old ones and the changed one. -/
theorem Memory.mem_set {a : Nat} {v : Byte} {c : Host.Cell} :
    ∀ {m : Memory}, c ∈ Memory.set m a v → c.1 = a ∨ c ∈ m
  | [], h => by
    by_cases hv : v = 0#8
    · simp [Memory.set, hv] at h
    · left; simp only [Memory.set, hv, if_false, List.mem_singleton] at h; simp [h]
  | (k, b) :: m, h => by
    simp only [Memory.set] at h
    split at h
    · split at h
      · exact .inr h
      · rcases List.mem_cons.1 h with h | h
        · left; simp [h]
        · exact .inr h
    · split at h
      · split at h
        · exact .inr (List.mem_cons_of_mem _ h)
        · rcases List.mem_cons.1 h with h | h
          · left; simp [h]
          · exact .inr (List.mem_cons_of_mem _ h)
      · rcases List.mem_cons.1 h with h | h
        · exact .inr (h ▸ List.mem_cons_self)
        · rcases Memory.mem_set h with h | h
          · exact .inl h
          · exact .inr (List.mem_cons_of_mem _ h)

/-- The source the host presents is canonical and lies inside [0, len). -/
theorem Memory.ofCells_wf (cells : List Host.Cell) (len : Nat) :
    (Memory.ofCells cells len).wf = true ∧ ∀ c ∈ Memory.ofCells cells len, c.1 < len := by
  suffices H : ∀ m : Memory, (m.wf = true ∧ ∀ c ∈ m, c.1 < len) →
      ((cells.foldl (fun m c => if c.1 < len then Memory.set m c.1 c.2 else m) m).wf = true
        ∧ ∀ c ∈ cells.foldl (fun m c => if c.1 < len then Memory.set m c.1 c.2 else m) m, c.1 < len) from
    H [] ⟨rfl, by simp⟩
  induction cells with
  | nil => exact fun m h => h
  | cons c cs ih =>
    intro m h
    refine ih _ ?_
    by_cases hc : c.1 < len
    · simp only [hc, if_true]
      refine ⟨Memory.set_keeps_wf _ _ h.1, fun d hd => ?_⟩
      rcases Memory.mem_set hd with hd | hd
      · omega
      · exact h.2 d hd
    · simpa [hc] using h

@[simp] theorem Memory.length_read (m : Memory) (a n : Nat) : (m.read a n).length = n := by
  simp [Memory.read]

/-- Byte i of a read is the source's byte there. -/
theorem Memory.getElem_read (m : Memory) (a n i : Nat) (h : i < (m.read a n).length) :
    (m.read a n)[i] = m.byteAt (a + i) := by
  simp [Memory.read]

/-- A read is two reads, one after the other. -/
theorem Memory.read_append (m : Memory) (a n k : Nat) : m.read a (n + k) = m.read a n ++ m.read (a + n) k := by
  simp [Memory.read, List.range_add, Nat.add_assoc]

/-- MemRead fails exactly when the read passes L, and then changes nothing; else it gives the bytes and sets HELD. -/
theorem memRead_cases (idx : Word32) (a n : Nat) (s : State) :
    (s.len.toNat < a + n ∧ memRead idx a n s = .error
      ⟨.srcShort, idx, BitVec.ofNat 64 n, BitVec.ofNat 64 (s.len.toNat - a), BitVec.ofNat 64 a⟩)
    ∨ (a + n ≤ s.len.toNat ∧ memRead idx a n s = .ok (s.src.read a n, { s with held := true })) := by
  unfold memRead
  by_cases h : s.len.toNat < a + n
  · exact .inl ⟨h, by simp [h]⟩
  · exact .inr ⟨by omega, by simp [h]⟩

theorem memRead_ok {idx : Word32} {a n : Nat} {s : State} (h : a + n ≤ s.len.toNat) :
    memRead idx a n s = .ok (s.src.read a n, { s with held := true }) := by
  simp [memRead, show ¬ s.len.toNat < a + n by omega]

theorem memRead_short {idx : Word32} {a n : Nat} {s : State} (h : s.len.toNat < a + n) :
    memRead idx a n s = .error
      ⟨.srcShort, idx, BitVec.ofNat 64 n, BitVec.ofNat 64 (s.len.toNat - a), BitVec.ofNat 64 a⟩ := by
  simp [memRead, h]

/-! The error entry and the resets -/

/-- The error entry leaves exactly `failedWith`. -/
theorem takeError_eq (e : ErrInfo) (s : State) : takeError e s = failedWith e s := by
  cases hd : s.dopen <;> cases hh : s.held <;>
    simp [takeError, failedWith, handleEvents, closeIfOpen, releaseIfHeld, latchError, emit, hd, hh]

/-- What letting go of both handles leaves. -/
theorem release_close_eq (s : State) : releaseIfHeld (closeIfOpen s) =
    { s with ev := s.ev ++ handleEvents s, dopen := false, held := false } := by
  cases hd : s.dopen <;> cases hh : s.held <;>
    simp [handleEvents, closeIfOpen, releaseIfHeld, emit, hd, hh]
  all_goals (cases s; simp_all)

/-- The registers of R48 after `resetRegisters`. -/
theorem resetRegisters_values (s : State) : ResetValues (resetRegisters s) := by
  constructor <;> simp only [resetRegisters, State.reset, and_self]

@[simp] theorem length_zeroBytes (n : Nat) : (zeroBytes n).length = n := by simp [zeroBytes]

@[simp] theorem length_zeroUnits (n : Nat) : (zeroUnits n).length = n := by simp [zeroUnits]

end Sys2Proof.Machine
end

