-- ==== Sys2Proof/Laws/Engine.lean ====
section
/-! SUPPORT. What a micro-step, a drained command and acceptance can do, said once. -/

namespace Sys2Proof.Machine

/-- What no micro-step of a command touches: the host's inputs, the parameters, ARG, PT_SEL, OVR, and the waiting flags
(those change only in `afterTick`). -/
structure Untouched (s t : State) : Prop where
  src : t.src = s.src
  len : t.len = s.len
  inbox : t.inbox = s.inbox
  reads : t.reads = s.reads
  xchunk : t.xchunk = s.xchunk
  cchunk : t.cchunk = s.cchunk
  pad : t.pad = s.pad
  draws : t.draws = s.draws
  arg : t.arg = s.arg
  ptSel : t.ptSel = s.ptSel
  ovr : t.ovr = s.ovr
  awaiting : t.awaiting = s.awaiting
  initPending : t.initPending = s.initPending

theorem Untouched.rfl {s : State} : Untouched s s := by constructor <;> first | exact Eq.refl _

theorem Untouched.trans {s t u : State} (h : Untouched s t) (k : Untouched t u) : Untouched s u := by
  constructor
  · exact k.src.trans h.src
  · exact k.len.trans h.len
  · exact k.inbox.trans h.inbox
  · exact k.reads.trans h.reads
  · exact k.xchunk.trans h.xchunk
  · exact k.cchunk.trans h.cchunk
  · exact k.pad.trans h.pad
  · exact k.draws.trans h.draws
  · exact k.arg.trans h.arg
  · exact k.ptSel.trans h.ptSel
  · exact k.ovr.trans h.ovr
  · exact k.awaiting.trans h.awaiting
  · exact k.initPending.trans h.initPending

theorem complete_untouched (s : State) : Untouched s (complete s) := by constructor <;> exact Eq.refl _
theorem raise_untouched (c : Instr) (e : ErrInfo) (s : State) : Untouched s (raise c e s) := by
  constructor <;> exact Eq.refl _
theorem goTo_untouched (c : Instr) (st : Stage) (s : State) : Untouched s (goTo c st s) := by
  constructor <;> exact Eq.refl _
theorem beginStage_untouched (ph : Phase) (c : Instr) (st : Stage) (s : State) :
    Untouched s (beginStage ph c st s) := by
  constructor <;> exact Eq.refl _
theorem closeIfOpen_untouched (s : State) : Untouched s (closeIfOpen s) := by
  unfold closeIfOpen; split <;> constructor <;> exact Eq.refl _
theorem releaseIfHeld_untouched (s : State) : Untouched s (releaseIfHeld s) := by
  unfold releaseIfHeld; split <;> constructor <;> exact Eq.refl _
theorem latchError_untouched (e : ErrInfo) (s : State) : Untouched s (latchError e s) := by
  constructor <;> exact Eq.refl _
theorem takeError_untouched (e : ErrInfo) (s : State) : Untouched s (takeError e s) :=
  ((closeIfOpen_untouched s).trans (releaseIfHeld_untouched _)).trans (latchError_untouched e _)
theorem beginHdr_untouched (c : Instr) (s : State) : Untouched s (beginHdr c s) := by constructor <;> exact Eq.refl _
theorem beginStruct_untouched (c : Instr) (s : State) : Untouched s (beginStruct c s) := by
  constructor <;> exact Eq.refl _
theorem beginCksum_untouched (c : Instr) (s : State) : Untouched s (beginCksum c s) := by
  unfold beginCksum; split <;> constructor <;> exact Eq.refl _
theorem beginTable_untouched (c : Instr) (s : State) : Untouched s (beginTable c s) := by
  constructor <;> exact Eq.refl _
theorem beginExtract_untouched (c : Instr) (s : State) : Untouched s (beginExtract c s) := by
  constructor <;> exact Eq.refl _
theorem afterHdr_untouched (c : Instr) (s : State) : Untouched s (afterHdr c s) := by
  unfold afterHdr; split
  · exact beginStruct_untouched _ _
  · exact complete_untouched _
theorem afterStruct_untouched (c : Instr) (s : State) : Untouched s (afterStruct c s) := by
  unfold afterStruct; split
  · exact beginCksum_untouched _ _
  · exact beginTable_untouched _ _
  · exact complete_untouched _
theorem afterCksum_untouched (c : Instr) (s : State) : Untouched s (afterCksum c s) := by
  unfold afterCksum; split
  · exact beginTable_untouched _ _
  · exact complete_untouched _
theorem afterTable_untouched (c : Instr) (s : State) : Untouched s (afterTable c s) := by
  unfold afterTable; split
  · exact beginExtract_untouched _ _
  · exact complete_untouched _

theorem foldPiece_untouched (c : Instr) (next : Nat → Stage) (p b : Nat) (s : State) :
    Untouched s (foldPiece c next p b s) := by
  unfold foldPiece
  rcases memRead_cases 0#32 p (min (s.cchunk : Nat) (b - p)) s with ⟨_, h⟩ | ⟨_, h⟩ <;> simp only [h] <;>
    constructor <;> exact Eq.refl _

theorem errorStep_untouched (e : ErrInfo) (s : State) : Untouched s (errorStep e s) := by
  unfold errorStep
  split
  · exact closeIfOpen_untouched s
  · split
    · exact releaseIfHeld_untouched s
    · exact latchError_untouched e s

theorem tickRdU16_untouched (c : Instr) (s : State) : Untouched s (tickRdU16 c s) := by
  unfold tickRdU16
  rcases memRead_cases 0#32 s.cur.toNat 2 s with ⟨_, h⟩ | ⟨_, h⟩ <;> simp only [h] <;> constructor <;> exact Eq.refl _

theorem tickRdU32_untouched (c : Instr) (s : State) : Untouched s (tickRdU32 c s) := by
  unfold tickRdU32
  rcases memRead_cases 0#32 s.cur.toNat 4 s with ⟨_, h⟩ | ⟨_, h⟩ <;> simp only [h] <;> constructor <;> exact Eq.refl _

theorem tickRdText_untouched (c : Instr) (n : Nat) (s : State) : Untouched s (tickRdText c n s) := by
  unfold tickRdText
  rcases memRead_cases 0#32 s.cur.toNat (2 * n) s with ⟨_, h⟩ | ⟨_, h⟩ <;> simp only [h] <;>
    constructor <;> exact Eq.refl _

theorem tickHdr_untouched (c : Instr) (s : State) : Untouched s (tickHdr c s) := by
  unfold tickHdr
  split
  · exact raise_untouched _ _ _
  · rcases memRead_cases 0#32 0 Config.hdrSize s with ⟨_, h⟩ | ⟨_, h⟩ <;> simp only [h]
    · exact raise_untouched _ _ _
    · exact Untouched.trans (by constructor <;> exact Eq.refl _) (afterHdr_untouched _ _)

theorem tickStruct_untouched (c : Instr) (s : State) : Untouched s (tickStruct c s) := by
  unfold tickStruct
  simp only
  split
  · exact raise_untouched _ _ _
  · split
    · exact Untouched.trans (by constructor <;> exact Eq.refl _) (raise_untouched _ _ _)
    · exact Untouched.trans (by constructor <;> exact Eq.refl _) (afterStruct_untouched _ _)

theorem tickFold1_untouched (c : Instr) (p : Nat) (s : State) : Untouched s (tickFold1 c p s) := by
  unfold tickFold1
  split
  · exact foldPiece_untouched _ _ _ _ _
  · split
    · exact raise_untouched _ _ _
    · exact Untouched.trans (by constructor <;> exact Eq.refl _) (by constructor <;> exact Eq.refl _)

theorem tickFold2_untouched (c : Instr) (p : Nat) (s : State) : Untouched s (tickFold2 c p s) := by
  unfold tickFold2
  split
  · exact foldPiece_untouched _ _ _ _ _
  · split
    · exact raise_untouched _ _ _
    · exact Untouched.trans (by constructor <;> exact Eq.refl _) (afterCksum_untouched _ _)

theorem tickTabLen_untouched (c : Instr) (i : Nat) (s : State) : Untouched s (tickTabLen c i s) := by
  unfold tickTabLen
  split
  · rcases memRead_cases (indexWord i) (recordAddr s i) 4 s with ⟨_, h⟩ | ⟨_, h⟩ <;> simp only [h]
    · exact raise_untouched _ _ _
    · split <;> constructor <;> exact Eq.refl _
  · exact Untouched.trans (by constructor <;> exact Eq.refl _) (afterTable_untouched _ _)

theorem tickTabBody_untouched (c : Instr) (i : Nat) (W : List Byte) (s : State) :
    Untouched s (tickTabBody c i W s) := by
  unfold tickTabBody
  generalize recordAddr s i = a
  rcases memRead_cases (indexWord i) (a + 4) 2576 s with ⟨_, h⟩ | ⟨_, h⟩ <;> simp only [h] <;>
    constructor <;> exact Eq.refl _

theorem tickPart_untouched {c : Instr} {i : Nat} {s t : State} (h : tickPart c i s = some t) : Untouched s t := by
  simp only [tickPart] at h
  split at h
  · split at h
    · cases h; exact goTo_untouched _ _ _
    · split at h
      · cases h
      · split at h <;> cases h <;> constructor <;> simp
  · cases h
    exact Untouched.trans (by constructor <;> exact Eq.refl _)
      ((releaseIfHeld_untouched { s with xd := true }).trans (complete_untouched _))

theorem tickChunkRead_untouched (c : Instr) (i p rem size : Nat) (s : State) :
    Untouched s (tickChunkRead c i p rem size s) := by
  unfold tickChunkRead
  split
  · constructor <;> exact Eq.refl _
  · rcases memRead_cases (indexWord i) p (min (s.xchunk : Nat) rem) s with ⟨_, h⟩ | ⟨_, h⟩ <;> simp only [h] <;>
      constructor <;> exact Eq.refl _

theorem tickChunkWrite_untouched {c : Instr} {i p rem size : Nat} {B : List Byte} {s t : State}
    (h : tickChunkWrite c i p rem size B s = some t) : Untouched s t := by
  simp only [tickChunkWrite] at h
  split at h
  · cases h
  · split at h <;> cases h <;> constructor <;> exact Eq.refl _

/-- No micro-step of a command touches the host's inputs, the parameters, ARG, PT_SEL or OVR (R29, R36, R252). -/
theorem stageTick_untouched {f : Flight} {s t : State} (h : stageTick f s = some t) : Untouched s t := by
  obtain ⟨c, st⟩ := f
  cases st with
  | ckReset => cases h; constructor <;> exact Eq.refl _
  | ckUpdate b => cases h; constructor <;> exact Eq.refl _
  | seek => cases h; constructor <;> exact Eq.refl _
  | rdU16 => cases h; exact tickRdU16_untouched _ _
  | rdU32 => cases h; exact tickRdU32_untouched _ _
  | rdText n => cases h; exact tickRdText_untouched _ _ _
  | hdr => cases h; exact tickHdr_untouched _ _
  | struct => cases h; exact tickStruct_untouched _ _
  | fold1 p => cases h; exact tickFold1_untouched _ _ _
  | fold2 p => cases h; exact tickFold2_untouched _ _ _
  | tabLen i => cases h; exact tickTabLen_untouched _ _ _
  | tabBody i W => cases h; exact tickTabBody_untouched _ _ _ _
  | part i => exact tickPart_untouched h
  | chunkRead i p rem size => cases h; exact tickChunkRead_untouched _ _ _ _ _ _
  | chunkWrite i p rem size B => exact tickChunkWrite_untouched h
  | progress i p rem size => cases h; constructor <;> exact Eq.refl _
  | raising e => cases h; exact errorStep_untouched _ _

/-! The engine -/

/-- Nothing waits and no INIT is pending: the state between two micro-steps of a command that waits for nothing. -/
def Calm (s : State) : Prop := s.awaiting = false ∧ s.initPending = false

theorem afterTick_calm {t : State} (h : Calm t) : afterTick t = t := by
  obtain ⟨h1, h2⟩ := h
  cases t
  simp_all [afterTick]

theorem Untouched.calm {s t : State} (h : Untouched s t) (hs : Calm s) : Calm t :=
  ⟨h.awaiting.trans hs.1, h.initPending.trans hs.2⟩

/-- In a calm state the engine's step is the stage's micro-step. -/
theorem engineTick_calm {s t : State} {f : Flight} (hs : Calm s) (hf : s.flight = some f)
    (ht : stageTick f s = some t) : engineTick s = some t := by
  simp [engineTick, hf, ht, afterTick_calm ((stageTick_untouched ht).calm hs)]

theorem engineTick_noFlight {s : State} (h : s.flight = none) : engineTick s = none := by
  simp [engineTick, h]

/-- k micro-steps lead from s to t. -/
inductive Ticks : Nat → State → State → Prop where
  | refl (s : State) : Ticks 0 s s
  | head {k : Nat} {s t u : State} : engineTick s = some t → Ticks k t u → Ticks (k + 1) s u

theorem Ticks.trans {j k : Nat} {s t u : State} (h : Ticks j s t) (h' : Ticks k t u) : Ticks (j + k) s u := by
  induction h with
  | refl => simpa using h'
  | head ht _ ih => rw [Nat.succ_add_eq_add_succ]; exact .head ht (ih h')

theorem Ticks.one {s t : State} (h : engineTick s = some t) : Ticks 1 s t := .head h (.refl t)

theorem drain_none {s : State} (h : engineTick s = none) : ∀ n, drain n s = s
  | 0 => rfl
  | n + 1 => by simp [drain, h]

theorem drain_some {s t : State} (h : engineTick s = some t) (n : Nat) : drain (n + 1) s = drain n t := by
  simp [drain, h]

/-- Draining passes through the micro-steps. -/
theorem Ticks.drain {k : Nat} {s t : State} (h : Ticks k s t) : ∀ n, k ≤ n → drain n s = drain (n - k) t := by
  induction h with
  | refl => intro n _; rfl
  | @head k s u v ht _ ih =>
    intro n hn
    obtain ⟨m, rfl⟩ : ∃ m, n = m + 1 := ⟨n - 1, by omega⟩
    rw [drain_some ht, ih m (by omega)]
    congr 1
    omega

/-- A command that reaches a state with nothing left to do within the bound is drained to that state. -/
theorem Ticks.drain_to {k : Nat} {s t : State} (h : Ticks k s t) (ht : engineTick t = none) {n : Nat} (hk : k ≤ n) :
    Machine.drain n s = t := by
  rw [h.drain n hk, drain_none ht]

/-- Draining performs some number of micro-steps, and stops only where none is left or the bound is used up. -/
theorem drain_ticks : ∀ (n : Nat) (s : State),
    ∃ k, k ≤ n ∧ Ticks k s (drain n s) ∧ (k = n ∨ engineTick (drain n s) = none)
  | 0, s => ⟨0, Nat.le_refl _, .refl s, .inl rfl⟩
  | n + 1, s => by
    cases h : engineTick s with
    | none => exact ⟨0, by omega, by rw [drain_none h]; exact .refl s, .inr (by rw [drain_none h]; exact h)⟩
    | some t =>
      obtain ⟨k, hk, ht, he⟩ := drain_ticks n t
      refine ⟨k + 1, by omega, by rw [drain_some h]; exact .head h ht, ?_⟩
      rw [drain_some h]
      rcases he with he | he
      · exact .inl (by omega)
      · exact .inr he

/-- What every micro-step keeps, a drained command keeps. -/
theorem drain_induct {P : State → Prop} (hstep : ∀ s t, P s → engineTick s = some t → P t) :
    ∀ (n : Nat) {s : State}, P s → P (drain n s)
  | 0, _, h => h
  | n + 1, s, h => by
    cases ht : engineTick s with
    | none => rw [drain_none ht]; exact h
    | some t => rw [drain_some ht]; exact drain_induct hstep n (hstep s t h ht)

/-- One micro-step: it is the stage's own, with the waiting over and a pending INIT performed; or a transaction is put on
the port to wait for its answer. -/
theorem engineTick_cases {s t : State} (h : engineTick s = some t) :
    ∃ f, s.flight = some f ∧
      ((∃ u, stageTick f s = some u ∧ Untouched s u ∧
          ((s.initPending = false ∧ t = { u with awaiting := false })
            ∨ (s.initPending = true ∧ t = performInit { u with awaiting := false })))
        ∨ (stageTick f s = none ∧ s.awaiting = false ∧ t = { s with awaiting := true })) := by
  unfold engineTick at h
  cases hf : s.flight with
  | none => simp [hf] at h
  | some f =>
    refine ⟨f, rfl, ?_⟩
    simp only [hf] at h
    cases hu : stageTick f s with
    | none =>
      simp only [hu] at h
      cases ha : s.awaiting with
      | true => simp [ha] at h
      | false => simp only [ha] at h; cases h; exact .inr ⟨rfl, rfl, rfl⟩
    | some u =>
      simp only [hu] at h
      cases h
      have hk := stageTick_untouched hu
      refine .inl ⟨u, rfl, hk, ?_⟩
      cases hi : s.initPending with
      | true => exact .inr ⟨rfl, by simp [afterTick, hk.initPending, hi]⟩
      | false => exact .inl ⟨rfl, by simp [afterTick, hk.initPending, hi]⟩

/-! The error entry, micro-step by micro-step -/

/-- In a calm state, at most three micro-steps lead from a `raise` to the end of the error entry. -/
theorem raise_ticks (c : Instr) (e : ErrInfo) (s : State) (hs : Calm s) :
    ∃ k, k ≤ 3 ∧ Ticks k (raise c e s) (failedWith e s) := by
  have tick : ∀ t : State, Calm t → t.flight = some ⟨c, .raising e⟩ → engineTick t = some (errorStep e t) :=
    fun t ht hf => engineTick_calm ht hf (by simp [stageTick])
  have hcalm : ∀ t : State, Calm t → Calm (errorStep e t) := fun t ht => (errorStep_untouched e t).calm ht
  have h0 : Calm (raise c e s) := hs
  have hf : (raise c e s).flight = some ⟨c, .raising e⟩ := rfl
  cases hd : s.dopen <;> cases hh : s.held
  · refine ⟨1, by omega, .head (tick _ h0 hf) ?_⟩
    have : errorStep e (raise c e s) = failedWith e s := by
      simp [errorStep, hd, hh, failedWith, handleEvents, latchError, raise, goTo]
    rw [this]; exact .refl _
  · have h1 : errorStep e (raise c e s) = { raise c e s with ev := s.ev ++ [.srcRelease], held := false } := by
      simp [errorStep, hd, hh, releaseIfHeld, emit]
    refine ⟨2, by omega, .head (tick _ h0 hf) (.head (tick _ (hcalm _ h0) (by rw [h1]; rfl)) ?_)⟩
    have : errorStep e (errorStep e (raise c e s)) = failedWith e s := by
      rw [h1]; simp [errorStep, hd, hh, failedWith, handleEvents, latchError, raise, goTo]
    rw [this]; exact .refl _
  · have h1 : errorStep e (raise c e s) = { raise c e s with ev := s.ev ++ [.dstClose], dopen := false } := by
      simp [errorStep, hd, closeIfOpen, emit]
    refine ⟨2, by omega, .head (tick _ h0 hf) (.head (tick _ (hcalm _ h0) (by rw [h1]; rfl)) ?_)⟩
    have : errorStep e (errorStep e (raise c e s)) = failedWith e s := by
      rw [h1]; simp [errorStep, hd, hh, failedWith, handleEvents, latchError, raise, goTo]
    rw [this]; exact .refl _
  · have h1 : errorStep e (raise c e s) = { raise c e s with ev := s.ev ++ [.dstClose], dopen := false } := by
      simp [errorStep, hd, closeIfOpen, emit]
    have h2 : errorStep e (errorStep e (raise c e s)) =
        { raise c e s with ev := s.ev ++ [.dstClose] ++ [.srcRelease], dopen := false, held := false } := by
      rw [h1]; simp [errorStep, hh, releaseIfHeld, emit]
    refine ⟨3, by omega, .head (tick _ h0 hf) (.head (tick _ (hcalm _ h0) (by rw [h1]; rfl))
      (.head (tick _ (hcalm _ (hcalm _ h0)) (by rw [h2]; rfl)) ?_))⟩
    have : errorStep e (errorStep e (errorStep e (raise c e s))) = failedWith e s := by
      rw [h2]; simp [errorStep, hd, hh, failedWith, handleEvents, latchError, raise, goTo]
    rw [this]; exact .refl _

/-! Acceptance -/

/-- A command accepted in IDLE with its milestone is started, and run to its end when the host is quiet. -/
theorem accept_idle {c : Instr} {start : State → State} {s : State} (hp : s.phase = .idle)
    (hm : missing (precondition c) s = none) : accept c start s = settle (start s) := by
  simp [accept, hp, hm]

theorem settle_quiet {s : State} (h : hostQuiet s = true) : settle s = drain drainBound s := by
  simp [settle, h]

theorem settle_notQuiet {s : State} (h : hostQuiet s = false) : settle s = s := by
  simp [settle, h]

/-- Acceptance does one of four things (R205). -/
theorem accept_cases (c : Instr) (start : State → State) (s : State) :
    (s.phase = .failed ∧ accept c start s = s)
    ∨ (s.busy = true ∧ accept c start s = refuseBusy s)
    ∨ (∃ m, s.phase = .idle ∧ missing (precondition c) s = some m
        ∧ accept c start s = failedWith (sequenceInfo m (encode c)) s)
    ∨ (s.phase = .idle ∧ missing (precondition c) s = none ∧ accept c start s = settle (start s)) := by
  cases hp : s.phase with
  | failed => exact .inl ⟨rfl, by simp [accept, hp]⟩
  | idle =>
    cases hm : missing (precondition c) s with
    | none => exact .inr (.inr (.inr ⟨rfl, rfl, by simp [accept, hp, hm]⟩))
    | some m => exact .inr (.inr (.inl ⟨m, rfl, rfl, by simp [accept, hp, hm, takeError_eq]⟩))
  | _ => exact .inr (.inl ⟨by simp [State.busy, hp, Phase.busy], by simp [accept, hp]⟩)

theorem Ready.calm {s : State} (h : Ready s) : Calm s := ⟨h.notAwaiting, h.noInit⟩

/-- A command accepted from a ready state that reaches, within the bound, a state with nothing in flight: that state is its
meaning. -/
theorem accept_to {c : Instr} {start : State → State} {s t : State} {k : Nat} (hr : Ready s)
    (hm : missing (precondition c) s = none) (hu : Untouched s (start s)) (ht : Ticks k (start s) t)
    (hf : t.flight = none) (hk : k ≤ drainBound) : accept c start s = t := by
  rw [accept_idle hr.idle hm, settle_quiet]
  · exact ht.drain_to (engineTick_noFlight hf) hk
  · have := hr.quiet
    unfold hostQuiet at *
    rw [hu.inbox]
    exact this

/-- The same, when the command raises an error on the way: the meaning ends in the error entry. -/
theorem accept_to_raise {c : Instr} {start : State → State} {s u : State} {e : ErrInfo} {k : Nat} (hr : Ready s)
    (hm : missing (precondition c) s = none) (hu : Untouched s (start s)) (ht : Ticks k (start s) (raise c e u))
    (hu' : Untouched s u) (hk : k + 3 ≤ drainBound) : accept c start s = failedWith e u := by
  obtain ⟨j, hj, h⟩ := raise_ticks c e u (hu'.calm hr.calm)
  exact accept_to hr hm hu (ht.trans h) (Eq.refl none) (Nat.le_trans (Nat.add_le_add_left hj k) hk)

/-- A calm state's micro-step, as one tick. -/
theorem Ticks.stage {s t : State} {c : Instr} {st : Stage} (hs : Calm s) (hf : s.flight = some ⟨c, st⟩)
    (ht : stageTick ⟨c, st⟩ s = some t) : Ticks 1 s t :=
  .one (engineTick_calm hs hf ht)

/-- A word that is no command does one of three things (R205, R233). -/
theorem acceptIllegal_cases (w : Word32) (s : State) :
    (s.phase = .failed ∧ acceptIllegal w s = s)
    ∨ (s.busy = true ∧ acceptIllegal w s = refuseBusy s)
    ∨ (s.phase = .idle ∧ acceptIllegal w s = failedWith (illegalInfo w) s) := by
  cases hp : s.phase with
  | failed => exact .inl ⟨rfl, by simp [acceptIllegal, hp]⟩
  | idle => exact .inr (.inr ⟨rfl, by simp [acceptIllegal, hp, takeError_eq]⟩)
  | _ => exact .inr (.inl ⟨by simp [State.busy, hp, Phase.busy], by simp [acceptIllegal, hp]⟩)

end Sys2Proof.Machine
end

