-- ==== Sys2Proof/Laws/Bodies.lean ====
section
/-! SUPPORT. What the loops of the bodies do, in micro-steps, when nothing goes wrong: the checksum fold (R170), the table
(R150), the chunks of a partition and the partitions (R185). -/

namespace Sys2Proof.Machine

theorem fold_ticks_end {f : Option Flight} {p : Nat} {s : State} (hf : s.flight = f)
    (hcur : s.cur = BitVec.ofNat 64 p) :
    ({ s with flight := f, ck := fold s.ck (s.src.read p (p - p)), cur := BitVec.ofNat 64 p
              held := s.held || decide (p < p) } : State) = s := by
  simp only [Nat.sub_self, Nat.lt_irrefl, decide_false, Bool.or_false, ← hf, ← hcur]
  rfl

/-- FOLD_REGION from offset p to b, in pieces of at most CCHUNK bytes, leaves CK the fold of the bytes between (R170). -/
theorem fold_ticks (c : Instr) (next : Nat → Stage) (b : Nat) (L : Word64) (hb : b ≤ L.toNat)
   (hst : ∀ p (s : State), p < b → s.len = L → stageTick ⟨c, next p⟩ s = some (foldPiece c next p b s)) :
   ∀ (m p : Nat) (s : State), b - p ≤ m → p ≤ b → Calm s → s.len = L → s.flight = some ⟨c, next p⟩ → s.cur = BitVec.ofNat 64 p →
   ∃ k, k ≤ m ∧ Ticks k s { s with flight := some ⟨c, next b⟩, ck := fold s.ck (s.src.read p (b - p)), cur := BitVec.ofNat 64 b, held := s.held || decide (p < b) } := by
  intro m
  induction m with
  | zero =>
    intro p s h1 h2 hc hl hf hcur
    have : p = b := by omega
    subst this
    refine ⟨0, le_refl _, ?_⟩
    rw [fold_ticks_end hf hcur]
    exact .refl s
  | succ m ih =>
    intro p s h1 h2 hc hl hf hcur
    by_cases hp : p = b
    · subst hp
      refine ⟨0, by omega, ?_⟩
      rw [fold_ticks_end hf hcur]
      exact .refl s
    · have hlt : p < b := by omega
      have ht := hst p s hlt hl
      obtain ⟨n, hn⟩ : ∃ n, n = min (s.cchunk : Nat) (b - p) := ⟨_, rfl⟩
      have hcc := s.cchunk.pos
      have hn1 : 1 ≤ n := by omega
      have hn2 : n ≤ b - p := by omega
      have e : foldPiece c next p b s = { s with flight := some ⟨c, next (p+n)⟩, ck := fold s.ck (s.src.read p n), cur := BitVec.ofNat 64 (p+n), held := true } := by
        simp only [foldPiece, ← hn]
        rw [memRead_ok (by rw [hl]; omega)]
        rfl
      have h1' := Ticks.stage hc hf (ht.trans (congrArg some e))
      obtain ⟨k, hk, hT⟩ := ih (p+n) { s with flight := some ⟨c, next (p+n)⟩, ck := fold s.ck (s.src.read p n), cur := BitVec.ofNat 64 (p+n), held := true } (by omega) (by omega) hc hl rfl rfl
      refine ⟨1 + k, by omega, h1'.trans ?_⟩
      convert hT using 1
      simp only [fold, ← List.foldl_append, hlt, decide_true, Bool.or_true, Bool.true_or]
      rw [← Memory.read_append, show n + (b - (p+n)) = b - p by omega]

/-- The length word of a record is that of its first four bytes. -/
theorem le32_append {A B : List Byte} (h : 4 ≤ A.length) : le32 (A ++ B) 0 = le32 A 0 := by
  simp only [le32, byteOf, List.getD, List.getElem?_append_left (show 0 < A.length by omega),
    List.getElem?_append_left (show 0 + 1 < A.length by omega), List.getElem?_append_left (show 0 + 2 < A.length by omega),
    List.getElem?_append_left (show 0 + 3 < A.length by omega)]

/-- PT_BODY over n good records from record i on: each is read in two micro-steps and appended (R150, R155). -/
theorem table_ticks (c : Instr) : ∀ (n i : Nat) (s : State), Calm s → s.flight = some ⟨c, .tabLen i⟩ →
    s.cur = BitVec.ofNat 64 (recordAddr s i) → i + n ≤ (hdrPartitionCount s.himg).toNat →
    (∀ k, i ≤ k → k < i + n → goodRecord s k) →
    Ticks (2 * n) s { s with
      flight := some ⟨c, .tabLen (i + n)⟩, pt := s.pt ++ (List.range' i n).map (sourceRecord s),
      cur := BitVec.ofNat 64 (recordAddr s (i + n)), held := s.held || decide (0 < n) }
  | 0, i, s, _, hf, hcur, _, _ => by
    have : { s with flight := some ⟨c, .tabLen (i + 0)⟩, pt := s.pt ++ (List.range' i 0).map (sourceRecord s),
                    cur := BitVec.ofNat 64 (recordAddr s (i + 0)), held := s.held || decide (0 < 0) } = s := by
      simp only [Nat.add_zero, ← hcur, ← hf, List.range'_zero, List.map_nil, List.append_nil, Nat.lt_irrefl,
        decide_false, Bool.or_false]
    rw [this]; exact .refl s
  | n + 1, i, s, hc, hf, hcur, hn, hg => by
    obtain ⟨h1, h2⟩ := hg i (Nat.le_refl i) (by omega)
    have hpd : Config.pdSize = 4 + 2576 := rfl
    have hw : le32 (s.src.read (recordAddr s i) 4) 0 = 2580#32 := by
      rw [← h2]
      simp only [pdLength, sourceRecord, hpd, Memory.read_append]
      exact (le32_append (by simp)).symm
    have e1 : stageTick ⟨c, .tabLen i⟩ s = some { s with
        flight := some ⟨c, .tabBody i (s.src.read (recordAddr s i) 4)⟩,
        cur := BitVec.ofNat 64 (recordAddr s i + 4), held := true } := by
      simp only [stageTick, tickTabLen, if_pos (show i < (hdrPartitionCount s.himg).toNat by omega)]
      rw [memRead_ok (by omega)]
      simp only [hw]
      rfl
    have t1 := Ticks.stage hc hf e1
    have e2 : stageTick ⟨c, .tabBody i (s.src.read (recordAddr s i) 4)⟩ { s with
        flight := some ⟨c, .tabBody i (s.src.read (recordAddr s i) 4)⟩,
        cur := BitVec.ofNat 64 (recordAddr s i + 4), held := true } = some { s with
        flight := some ⟨c, .tabLen (i + 1)⟩, pt := s.pt ++ [sourceRecord s i],
        cur := BitVec.ofNat 64 (recordAddr s (i + 1)), held := true } := by
      simp only [stageTick, tickTabBody]
      rw [memRead_ok (by simp only [recordAddr] at *; omega)]
      simp only [sourceRecord, hpd, Memory.read_append, recordAddr, goTo, setCursor, Nat.mul_add, Nat.mul_one, Nat.add_assoc]
    have t2 := Ticks.stage (by exact hc) rfl e2
    have ih := table_ticks c n (i + 1) { s with
        flight := some ⟨c, .tabLen (i + 1)⟩, pt := s.pt ++ [sourceRecord s i],
        cur := BitVec.ofNat 64 (recordAddr s (i + 1)), held := true } hc rfl rfl (by simpa [Nat.add_assoc, Nat.add_comm 1] using hn)
        (fun k h h' => hg k (by omega) (by omega))
    have hT := (t1.trans t2).trans ih
    convert hT using 1
    · omega
    · simp only [List.range'_succ, List.map_cons, List.append_assoc, List.singleton_append, Nat.add_assoc, Nat.add_comm 1,
        Nat.zero_lt_succ, decide_true, Bool.or_true, Bool.true_or]
      rfl

theorem Memory.take_read (m : Memory) (a n k : Nat) : (m.read a n).take k = m.read a (min k n) := by
  obtain h | h := Nat.le_total k n
  · obtain ⟨j, rfl⟩ := Nat.exists_eq_add_of_le h
    rw [Memory.read_append, List.take_append_of_le_length (by simp), List.take_of_length_le (by simp), Nat.min_eq_left h]
  · rw [List.take_of_length_le (by simpa using h), Nat.min_eq_right h]

theorem Memory.drop_read (m : Memory) (a n k : Nat) : (m.read a n).drop k = m.read (a + min k n) (n - k) := by
  obtain h | h := Nat.le_total k n
  · obtain ⟨j, rfl⟩ := Nat.exists_eq_add_of_le h
    rw [Memory.read_append, List.drop_append_of_le_length (by simp), List.drop_of_length_le (by simp), Nat.min_eq_left h]
    simp
  · rw [List.drop_of_length_le (by simpa using h), Nat.sub_eq_zero_of_le h]; simp [Memory.read]

/-- The chunk loop over the bytes still to move, every DstWrite answered OK (R185, R188, R189). -/
theorem chunk_ticks (c : Instr) (i size : Nat) (name : List CodeUnit) (ds : List Dest) : ∀ (n p rem : Nat) (bs : List Byte) (s : State),
    Calm s → s.flight = some ⟨c, .chunkRead i p rem size⟩ → rem ≤ n → p + rem ≤ s.len.toNat → s.cur = BitVec.ofNat 64 p →
    (∀ a ∈ s.writeAnswers, a = .ok) → (rem + (s.xchunk : Nat) - 1) / (s.xchunk : Nat) ≤ s.writeAnswers.length →
    s.dests = ⟨name, bs⟩ :: ds →
    ∃ k, k ≤ 3 * rem ∧ Ticks k s { s with
      flight := some ⟨c, .chunkRead i (p + rem) 0 size⟩, held := s.held || decide (0 < rem)
      cur := BitVec.ofNat 64 (p + rem), prog := if 0 < rem then 100#7 else s.prog
      ev := s.ev ++ chunkEvents (indexWord i) size s.xchunk n (s.src.read p rem)
      dests := ⟨name, bs ++ s.src.read p rem⟩ :: ds
      writeAnswers := s.writeAnswers.drop ((rem + (s.xchunk : Nat) - 1) / (s.xchunk : Nat)) } := by
  have hnil : ∀ (p rem : Nat) (n : Nat) (bs : List Byte) (s : State), rem = 0 → s.flight = some ⟨c, .chunkRead i p rem size⟩ → s.cur = BitVec.ofNat 64 p → s.dests = ⟨name, bs⟩ :: ds →
    ({ s with
      flight := some ⟨c, .chunkRead i (p + rem) 0 size⟩, held := s.held || decide (0 < rem)
      cur := BitVec.ofNat 64 (p + rem), prog := if 0 < rem then 100#7 else s.prog
      ev := s.ev ++ chunkEvents (indexWord i) size s.xchunk n (s.src.read p rem)
      dests := ⟨name, bs ++ s.src.read p rem⟩ :: ds
      writeAnswers := s.writeAnswers.drop ((rem + (s.xchunk : Nat) - 1) / (s.xchunk : Nat)) } : State) = s := by
    intro p rem n bs s h0 hf hcur hd
    subst h0
    have hx := s.xchunk.pos
    have e0 : (0 + (s.xchunk : Nat) - 1) / (s.xchunk : Nat) = 0 := Nat.div_eq_of_lt (by omega)
    have e1 : chunkEvents (indexWord i) size s.xchunk n [] = [] := by cases n <;> simp [chunkEvents]
    have e2 : s.src.read p 0 = [] := rfl
    simp only [e0, e1, e2, Nat.add_zero, List.append_nil, List.drop_zero, Nat.lt_irrefl, decide_false, Bool.or_false, if_false, ← hf, ← hcur, ← hd]
  intro n
  induction n with
  | zero =>
    intro p rem bs s hc hf hr hl hcur ha hw hd
    have h0 : rem = 0 := by omega
    refine ⟨0, by omega, ?_⟩
    rw [hnil p rem 0 bs s h0 hf hcur hd]
    exact .refl s
  | succ n ih =>
    intro p rem bs s hc hf hr hl hcur ha hw hd
    by_cases h0 : rem = 0
    · refine ⟨0, by omega, ?_⟩
      rw [hnil p rem (n+1) bs s h0 hf hcur hd]
      exact .refl s
    · have hx := s.xchunk.pos
      obtain ⟨x, hxe⟩ : ∃ x : Nat, (s.xchunk : Nat) = x := ⟨_, rfl⟩
      obtain ⟨m, hm⟩ : ∃ m, m = min x rem := ⟨_, rfl⟩
      have hm1 : 1 ≤ m := by omega
      have hm2 : m ≤ rem := by omega
      have hceil : (rem + x - 1) / x = 1 + (rem - m + x - 1) / x := by
        by_cases hxr : x ≤ rem
        · have : rem + x - 1 = (rem - m + x - 1) + x := by omega
          rw [this, Nat.add_div_right _ (by omega)]; omega
        · have h1 : (rem + x - 1) / x = 1 := by
            rw [show rem + x - 1 = (rem - 1) + x by omega, Nat.add_div_right _ (by omega), Nat.div_eq_of_lt (by omega)]
          have h2 : (rem - m + x - 1) / x = 0 := Nat.div_eq_of_lt (by omega)
          omega
      rw [hxe, hceil] at hw
      cases hwa : s.writeAnswers with
      | nil => rw [hwa] at hw; simp at hw
      | cons a rest =>
        have hok : a = .ok := ha a (by rw [hwa]; exact List.mem_cons_self)
        subst hok
        have e1 : stageTick ⟨c, .chunkRead i p rem size⟩ s = some { s with
            flight := some ⟨c, .chunkWrite i p rem size (s.src.read p m)⟩, held := true } := by
          simp only [stageTick, tickChunkRead, if_neg h0, hxe, ← hm]
          rw [memRead_ok (by omega)]
          rfl
        have t1 := Ticks.stage hc hf e1
        have e2 : stageTick ⟨c, .chunkWrite i p rem size (s.src.read p m)⟩ { s with
            flight := some ⟨c, .chunkWrite i p rem size (s.src.read p m)⟩, held := true } = some { s with
            flight := some ⟨c, .progress i (p + m) (rem - m) size⟩, held := true
            cur := BitVec.ofNat 64 (p + m), ev := s.ev ++ [.dstWrite (s.src.read p m)], writeAnswers := rest
            dests := ⟨name, bs ++ s.src.read p m⟩ :: ds
            prog := BitVec.ofNat 7 (progressPct (rem - m) size) } := by
          simp only [stageTick, tickChunkWrite, hwa, Memory.length_read]
          simp only [goTo, setCursor, emit, hd, appendDest]
        have t2 := Ticks.stage (by exact hc) rfl e2
        have e3 : stageTick ⟨c, .progress i (p + m) (rem - m) size⟩ { s with
            flight := some ⟨c, .progress i (p + m) (rem - m) size⟩, held := true
            cur := BitVec.ofNat 64 (p + m), ev := s.ev ++ [.dstWrite (s.src.read p m)], writeAnswers := rest
            dests := ⟨name, bs ++ s.src.read p m⟩ :: ds
            prog := BitVec.ofNat 7 (progressPct (rem - m) size) } = some { s with
            flight := some ⟨c, .chunkRead i (p + m) (rem - m) size⟩, held := true
            cur := BitVec.ofNat 64 (p + m)
            ev := s.ev ++ [.dstWrite (s.src.read p m)] ++ [.progress (indexWord i) (BitVec.ofNat 7 (progressPct (rem - m) size))]
            writeAnswers := rest
            dests := ⟨name, bs ++ s.src.read p m⟩ :: ds
            prog := BitVec.ofNat 7 (progressPct (rem - m) size) } := rfl
        have t3 := Ticks.stage (by exact hc) rfl e3
        obtain ⟨k, hk, hT⟩ := ih (p + m) (rem - m) (bs ++ s.src.read p m) { s with
            flight := some ⟨c, .chunkRead i (p + m) (rem - m) size⟩, held := true
            cur := BitVec.ofNat 64 (p + m)
            ev := s.ev ++ [.dstWrite (s.src.read p m)] ++ [.progress (indexWord i) (BitVec.ofNat 7 (progressPct (rem - m) size))]
            writeAnswers := rest
            dests := ⟨name, bs ++ s.src.read p m⟩ :: ds
            prog := BitVec.ofNat 7 (progressPct (rem - m) size) } hc rfl (by omega) (by show p + m + (rem - m) ≤ s.len.toNat; omega) rfl
            (fun a h => ha a (by rw [hwa]; exact List.mem_cons_of_mem _ h))
            (by rw [hwa] at hw; simp only [hxe, List.length_cons] at hw ⊢; omega) rfl
        refine ⟨1 + 1 + 1 + k, by omega, ?_⟩
        convert ((t1.trans t2).trans t3).trans hT using 1
        have hread : s.src.read p rem = s.src.read p m ++ s.src.read (p + m) (rem - m) := by
          rw [← Memory.read_append]; congr 1; omega
        have hne : s.src.read p rem ≠ [] := by
          intro h; have := congrArg List.length h; simp at this; omega
        have hev : chunkEvents (indexWord i) size x (n + 1) (s.src.read p rem) =
            .dstWrite (s.src.read p m) :: .progress (indexWord i) (BitVec.ofNat 7 (progressPct (rem - m) size))
              :: chunkEvents (indexWord i) size x n (s.src.read (p + m) (rem - m)) := by
          simp only [chunkEvents, if_neg hne, Memory.take_read, Memory.drop_read, Memory.length_read, ← hm]
          rw [show rem - x = rem - m by omega]
        simp only [hxe, hev]
        simp only [hceil, hread, List.append_assoc, List.cons_append, List.nil_append, Nat.add_comm 1, List.drop_succ_cons, show p + m + (rem - m) = p + rem by omega,
          show 0 < rem by omega, decide_true, Bool.or_true, Bool.true_or, if_true]
        by_cases hz : 0 < rem - m
        · simp only [hz, if_true]
        · have : rem - m = 0 := by omega
          simp [this, progressPct]

@[simp] theorem length_unitsOf (B : List Byte) : ∀ (n o : Nat), (unitsOf B o n).length = n
  | 0, _ => rfl
  | n + 1, o => by simp [unitsOf, length_unitsOf B n (o + 2)]

theorem extractOne_flight (i : Nat) (D : List Byte) (s : State) (f : Option Flight) :
    extractOne i D { s with flight := f } = { extractOne i D s with flight := f } := by
  unfold extractOne; split <;> rfl

theorem extractFrom_flight : ∀ (table : List (List Byte)) (i : Nat) (s : State) (f : Option Flight),
    extractFrom i table { s with flight := f } = { extractFrom i table s with flight := f }
  | [], _, _, _ => rfl
  | D :: rest, i, s, f => by
    simp only [extractFrom, extractOne_flight]
    exact extractFrom_flight rest (i + 1) (extractOne i D s) f

/-- One partition, its payload inside the source and every answer OK: its micro-steps leave `extractOne` (R185). -/
theorem part_tick (c : Instr) (i : Nat) (D : List Byte) (s : State) (hc : Calm s) (hf : s.flight = some ⟨c, .part i⟩)
    (hi : i < s.pt.length) (hD : s.pt.getD i [] = D) (hcl : s.dopen = false)
    (hx : extractable s (D :: rest)) :
    ∃ k, k ≤ 3 * 2 ^ 32 + 3 ∧ Ticks k s { extractOne i D s with flight := some ⟨c, .part (i + 1)⟩ } := by
  obtain ⟨h1, h2, h3, h4, h5⟩ := hx
  by_cases h0 : pdPartitionSize D = 0#32
  · refine ⟨1, by omega, Ticks.stage hc hf ?_⟩
    simp only [stageTick, tickPart, if_pos hi, hD, extractOne, h0]
    rfl
  · have hs0 : (pdPartitionSize D).toNat ≠ 0 := fun h => h0 (BitVec.eq_of_toNat_eq h)
    have hlt := (pdPartitionSize D).isLt
    have hlen := h1 D List.mem_cons_self h0
    cases ho : s.openAnswers with
    | nil => rw [ho, List.countP_cons] at h4; simp [h0] at h4
    | cons a os =>
      have hok : a = .ok := h2 a (by rw [ho]; exact List.mem_cons_self)
      subst hok
      obtain ⟨A, hA⟩ : ∃ A, (pdPartitionAddr D).toNat = A := ⟨_, rfl⟩
      obtain ⟨S, hS⟩ : ∃ S, (pdPartitionSize D).toNat = S := ⟨_, rfl⟩
      obtain ⟨name, hn⟩ : ∃ n, trimUnits s.pad (pdFileNameUnits D) = n := ⟨_, rfl⟩
      have e1 : stageTick ⟨c, .part i⟩ s = some { setText (pdFileNameUnits D) s with
          flight := some ⟨c, .chunkRead i A S S⟩, cur := BitVec.ofNat 64 A, pidx := indexWord i, prog := 0#7
          openAnswers := os, ev := s.ev ++ [.dstOpen name], dopen := true
          dests := ⟨name, []⟩ :: s.dests.filter (fun d => d.name ≠ name) } := by
        simp only [stageTick, tickPart, if_pos hi, hD, ho, hA, hS, hn, if_neg (show ¬ S = 0 by omega)]
        rfl
      have t1 := Ticks.stage hc hf e1
      obtain ⟨k, hk, t2⟩ := chunk_ticks c i S name (s.dests.filter (fun d => d.name ≠ name)) S A S []
        { setText (pdFileNameUnits D) s with
          flight := some ⟨c, .chunkRead i A S S⟩, cur := BitVec.ofNat 64 A, pidx := indexWord i, prog := 0#7
          openAnswers := os, ev := s.ev ++ [.dstOpen name], dopen := true
          dests := ⟨name, []⟩ :: s.dests.filter (fun d => d.name ≠ name) } hc rfl (Nat.le_refl S)
        (by rw [← hA, ← hS]; exact hlen) rfl h3
        (by
          rw [List.map_cons, List.sum_cons] at h5
          have : chunkCount s D = (S + (s.xchunk : Nat) - 1) / (s.xchunk : Nat) := by rw [← hS]; rfl
          rw [this] at h5
          exact Nat.le_trans (Nat.le_add_right _ _) h5) rfl
      have t12 := t1.trans t2
      generalize hu : ({ setText (pdFileNameUnits D) s with
          flight := some ⟨c, .chunkRead i A S S⟩, cur := BitVec.ofNat 64 A, pidx := indexWord i, prog := 0#7
          openAnswers := os, ev := s.ev ++ [.dstOpen name], dopen := true
          dests := ⟨name, []⟩ :: s.dests.filter (fun d => d.name ≠ name) } : State) = u at t12
      have e3 : ∀ v : State, Calm v → v.flight = some ⟨c, .chunkRead i (A + S) 0 S⟩ →
          Ticks 1 v { v with flight := some ⟨c, .part (i + 1)⟩, ev := v.ev ++ [.dstClose], dopen := false } :=
        fun v hv hvf => Ticks.stage hv hvf (by simp [stageTick, tickChunkRead, goTo, emit])
      have t3 := t12.trans (e3 _ (by subst hu; exact hc) rfl)
      refine ⟨1 + k + 1, by omega, ?_⟩
      convert t3 using 1
      subst hu
      simp only [extractOne, if_neg h0, partitionEvents, payloadOf, chunkCount, hA, hS, hn, show 0 < S by omega,
        if_true, decide_true, Bool.or_true, ho, List.drop_succ_cons, List.drop_zero, List.nil_append, List.append_assoc,
        List.cons_append, hcl, setText]

/-- Every partition from index i on, in table order (R185, R195). -/
theorem parts_ticks (c : Instr) : ∀ (table : List (List Byte)) (i : Nat) (s : State), Calm s →
    s.flight = some ⟨c, .part i⟩ → s.pt.drop i = table → i ≤ s.pt.length → s.dopen = false → extractable s table →
    ∃ k, k ≤ (3 * 2 ^ 32 + 3) * table.length ∧
      Ticks k s { extractFrom i table s with flight := some ⟨c, .part s.pt.length⟩ }
  | [], i, s, hc, hf, hd, hi, hcl, hx => by
    have hl := congrArg List.length hd
    simp only [List.length_drop, List.length_nil] at hl
    have : i = s.pt.length := by omega
    subst this
    refine ⟨0, by omega, ?_⟩
    have : { extractFrom s.pt.length [] s with flight := some ⟨c, .part s.pt.length⟩ } = s := by
      rw [← hf]; rfl
    rw [this]; exact .refl s
  | D :: rest, i, s, hc, hf, hd, hi, hcl, hx => by
    have hlt : i < s.pt.length := by
      have hl := congrArg List.length hd
      simp only [List.length_drop, List.length_cons] at hl
      omega
    have hD : s.pt.getD i [] = D := by
      have := List.drop_eq_getElem_cons hlt
      rw [hd] at this
      injection this with h1 h2
      simp [List.getD, List.getElem?_eq_getElem hlt, h1]
    have hrest : s.pt.drop (i + 1) = rest := by
      have := List.drop_eq_getElem_cons hlt
      rw [hd] at this
      injection this with h1 h2
      exact h2.symm
    obtain ⟨k, hk, t1⟩ := part_tick (rest := rest) c i D s hc hf hlt hD hcl hx
    have hun : (extractOne i D s).pt = s.pt ∧ Calm (extractOne i D s) ∧ (extractOne i D s).dopen = s.dopen := by
      unfold extractOne; split <;> exact ⟨rfl, hc, rfl⟩
    have hx' : extractable { extractOne i D s with flight := some ⟨c, .part (i + 1)⟩ } rest := by
      obtain ⟨h1, h2, h3, h4, h5⟩ := hx
      rw [List.countP_cons] at h4
      rw [List.map_cons, List.sum_cons] at h5
      unfold extractOne
      by_cases h0 : pdPartitionSize D = 0#32
      · simp only [h0, if_true]
        exact ⟨fun E hE => h1 E (List.mem_cons_of_mem _ hE), h2, h3, Nat.le_trans (Nat.le_add_right _ _) h4, by
          have : (rest.map (chunkCount { s with flight := some ⟨c, .part (i + 1)⟩ })) = rest.map (chunkCount s) := rfl
          rw [this]; exact Nat.le_trans (Nat.le_add_left _ _) h5⟩
      · simp only [h0, if_false]
        refine ⟨fun E hE => h1 E (List.mem_cons_of_mem _ hE), fun a h => h2 a (List.mem_of_mem_drop h),
          fun a h => h3 a (List.mem_of_mem_drop h), ?_, ?_⟩
        · simp only [ne_eq, h0, not_false_eq_true, decide_true, if_true] at h4
          simp only [List.length_drop, ne_eq]; omega
        · simp only [List.length_drop]
          exact Nat.le_sub_of_add_le (by rw [Nat.add_comm]; exact h5)
    obtain ⟨j, hj, t2⟩ := parts_ticks c rest (i + 1) { extractOne i D s with flight := some ⟨c, .part (i + 1)⟩ } hun.2.1 rfl
      (by show (extractOne i D s).pt.drop (i + 1) = rest; rw [hun.1]; exact hrest)
      (by show i + 1 ≤ (extractOne i D s).pt.length; rw [hun.1]; exact hlt)
      (by show (extractOne i D s).dopen = false; rw [hun.2.2]; exact hcl) hx'
    refine ⟨k + j, by rw [List.length_cons, Nat.mul_add, Nat.mul_one]; omega, ?_⟩
    convert t1.trans t2 using 1
    rw [extractFrom_flight rest (i + 1) (extractOne i D s)]
    simp only [extractFrom]
    show _ = { extractFrom (i + 1) rest (extractOne i D s) with flight := some ⟨c, .part (extractOne i D s).pt.length⟩ }
    rw [hun.1]

/-! The bodies, from their first micro-step -/

/-- HDR_BODY of a container that holds a header (R146). -/
theorem hdr_tick (c : Instr) (s : State) (h : 2124 ≤ s.len.toNat) : stageTick ⟨c, .hdr⟩ s = some (afterHdr c { s with himg := s.src.read 0 2124, hv := true, cur := 2124#64, held := true }) := by
  have h1 : ¬ s.len.toNat < Config.hdrSize := by simp only [Config.hdrSize]; omega
  have h2 : memRead 0#32 0 Config.hdrSize s = .ok (s.src.read 0 2124, { s with held := true }) := memRead_ok (by simp only [Config.hdrSize]; omega)
  simp only [stageTick, tickHdr, if_neg h1, h2, setCursor]

/-- HDR_BODY of a container too short for a header (R146). -/
theorem hdr_short (c : Instr) (s : State) (h : s.len.toNat < 2124) : stageTick ⟨c, .hdr⟩ s = some (raise c ⟨.shortHeader, 0#32, 2124#64, s.len, 0#64⟩ s) := by
  have h1 : s.len.toNat < Config.hdrSize := by simp only [Config.hdrSize]; omega
  simp only [stageTick, tickHdr, if_pos h1]

/-- STRUCT_BODY after its flag updates (R165). -/
theorem struct_tick (c : Instr) (s : State) : stageTick ⟨c, .struct⟩ s = some (
      if (hdrFileSize s.himg).zeroExtend 64 ≠ s.len then
        raise c ⟨.sizeMismatch, 0#32, (hdrFileSize s.himg).zeroExtend 64, s.len, 0#64⟩ s
      else if textOf s.pad s.himg 0 24 ≠ Config.versionLit then
        raise c ⟨.badVersion, 0#32, 0#64, 0#64, 0#64⟩
          { s with tbuf := unitsOf s.himg 0 24 ++ zeroUnits 232,
                   tlen := BitVec.ofNat 9 (textOf s.pad s.himg 0 24).length }
      else
        afterStruct c { s with sv := true, tbuf := unitsOf s.himg 0 24 ++ zeroUnits 232, tlen := 9#9 }) := by
  simp only [stageTick, tickStruct, textOf, hdrVersionUnits, setText, length_unitsOf]
  by_cases h : (hdrFileSize s.himg).zeroExtend 64 = s.len
  · by_cases h' : trimUnits s.pad (unitsOf s.himg 0 24) = Config.versionLit
    · simp only [ne_eq, h, h', not_true_eq_false, if_false]; rfl
    · simp only [ne_eq, h, h', not_true_eq_false, not_false_eq_true, if_false, if_true]
  · simp only [ne_eq, h, not_false_eq_true, if_true]

/-- PT_BODY over the first n records, all of them good (R150). -/
theorem table_prefix_ticks (c : Instr) (n : Nat) (s s' : State) (hc : Calm s) (hs' : s' = beginTable c s) (hn : n ≤ (hdrPartitionCount s.himg).toNat) (hg : ∀ k, k < n → goodRecord s k) :
   Ticks (2*n) s' { s' with flight := some ⟨c, .tabLen n⟩, pt := sourceTable s n, cur := BitVec.ofNat 64 (recordAddr s n), held := s.held || decide (0 < n) } := by
  subst hs'
  have := table_ticks c n 0 (beginTable c s) hc rfl (by simp [beginTable, recordAddr]) (by simpa [beginTable] using hn) (fun k _ h => hg k (by omega))
  simp only [Nat.zero_add] at this
  have e : (beginTable c s).pt ++ List.map (sourceRecord (beginTable c s)) (List.range' 0 n) = sourceTable s n := by
    simp only [sourceTable, List.range_eq_range']
    show [] ++ _ = _
    rw [List.nil_append]; rfl
  rw [e] at this
  exact this

theorem zext_magic (w : Word32) : (w.zeroExtend 64 = 0x00000000FFFAFFFA#64) ↔ w = 0xFFFAFFFA#32 := by
  constructor
  · intro h; have := congrArg BitVec.toNat h; simp at this; apply BitVec.eq_of_toNat_eq; have := w.isLt; simp; omega
  · rintro rfl; rfl
theorem zext_16 (a b : BitVec 16) : (a.zeroExtend 64 = b.zeroExtend 64) ↔ a = b := by
  constructor
  · intro h; have h := congrArg BitVec.toNat h; simp at h; apply BitVec.eq_of_toNat_eq; omega
  · rintro rfl; rfl

/-- Region 1 of CK_BODY, before its comparison (R170). -/
theorem region1_ticks (c : Instr) (s : State) (hc : Calm s) (hl : 2124 ≤ s.len.toNat) (hm : hdrMagic s.himg = 0xFFFAFFFA#32) :
  ∃ k, k ≤ 2120 ∧ Ticks k (beginCksum c s) { s with phase := .ck1, flight := some ⟨c, .fold1 2120⟩, cv := false, c1 := false, ck := cksum (s.src.read 0 2120), cur := 2120#64, held := true } := by
  have e : beginCksum c s = { s with phase := .ck1, flight := some ⟨c, .fold1 0⟩, cv := false, c1 := false, ck := Config.ckSeed, cur := 0#64 } := by
    unfold beginCksum; rw [if_pos ((zext_magic _).2 hm)]; rfl
  rw [e]
  obtain ⟨k, hk, h⟩ := fold_ticks c .fold1 2120 s.len (by omega) (fun p t hp ht => by simp [stageTick, tickFold1, Config.crc1Len, hp]) 2120 0 { s with phase := .ck1, flight := some ⟨c, .fold1 0⟩, cv := false, c1 := false, ck := Config.ckSeed, cur := 0#64 } (by omega) (by omega) hc rfl rfl rfl
  refine ⟨k, hk, ?_⟩
  have e2 : (s.held || decide (0 < 2120)) = true := by simp
  simp only [e2] at h
  exact h

/-- Region 2 of CK_BODY, before its comparison (R170, R172). -/
theorem region2_ticks (c : Instr) (s : State) (hc : Calm s) (hl : 2124 ≤ s.len.toNat) :
  ∃ k, k ≤ 2^64 ∧ Ticks k (beginRegion2 c s) { s with phase := .ck2, flight := some ⟨c, .fold2 s.len.toNat⟩, ck := cksum (s.src.read 2124 (s.len.toNat - 2124)), cur := s.len, held := s.held || decide (2124 < s.len.toNat) } := by
  have e : beginRegion2 c s = { s with phase := .ck2, flight := some ⟨c, .fold2 2124⟩, ck := Config.ckSeed, cur := 2124#64 } := rfl
  rw [e]
  have hlt := s.len.isLt
  obtain ⟨k, hk, h⟩ := fold_ticks c .fold2 s.len.toNat s.len (by omega) (fun p t hp ht => by simp [stageTick, tickFold2, ht, hp]) (s.len.toNat - 2124) 2124 { s with phase := .ck2, flight := some ⟨c, .fold2 2124⟩, ck := Config.ckSeed, cur := 2124#64 } (by omega) (by omega) hc rfl rfl rfl
  refine ⟨k, by omega, ?_⟩
  have e2 : BitVec.ofNat 64 s.len.toNat = s.len := by simp
  simp only [e2] at h
  exact h

/-- CK_BODY: the error of the first comparison that fails, or what follows the body (R170, R173). -/
theorem ck_ticks (c : Instr) (s : State) (hc : Calm s) (hl : 2124 ≤ s.len.toNat) :
  ∃ k, k ≤ 2^64 + 2^20 ∧ Ticks k (beginCksum c s) (
       let magic := decide (hdrMagic s.himg = 0xFFFAFFFA#32)
       let sum1 := cksum (s.src.read 0 2120)
       let sum2 := cksum (s.src.read 2124 (s.len.toNat - 2124))
       let held2 := s.held || magic || decide (2124 < s.len.toNat)
       if magic = true ∧ sum1 ≠ hdrCrc1 s.himg then
         raise c ⟨.crc1Mismatch, 0#32, (hdrCrc1 s.himg).zeroExtend 64, sum1.zeroExtend 64, 0#64⟩
           { s with phase := .ck1, cv := false, c1 := false, ck := sum1, cur := 2120#64, held := true }
       else if sum2 ≠ hdrCrc2 s.himg then
         raise c ⟨.crc2Mismatch, 0#32, (hdrCrc2 s.himg).zeroExtend 64, sum2.zeroExtend 64, 0#64⟩
           { s with phase := .ck2, cv := false, c1 := magic, ck := sum2, cur := s.len, held := held2 }
       else afterCksum c { s with phase := .ck2, flight := some ⟨c, .fold2 s.len.toNat⟩, cv := true, c1 := magic, ck := sum2, cur := s.len, held := held2 }) := by
  have tail : ∀ (t : State), Calm t → 2124 ≤ t.len.toNat →
     ∃ k, k ≤ 2^64 + 1 ∧ Ticks k (beginRegion2 c t) (
       let sum2 := cksum (t.src.read 2124 (t.len.toNat - 2124))
       let held2 := t.held || decide (2124 < t.len.toNat)
       if sum2 ≠ hdrCrc2 t.himg then
         raise c ⟨.crc2Mismatch, 0#32, (hdrCrc2 t.himg).zeroExtend 64, sum2.zeroExtend 64, 0#64⟩
           { t with phase := .ck2, ck := sum2, cur := t.len, held := held2 }
       else afterCksum c { t with phase := .ck2, flight := some ⟨c, .fold2 t.len.toNat⟩, cv := true, ck := sum2, cur := t.len, held := held2 }) := by
    intro t ht h1
    obtain ⟨k, hk, hT⟩ := region2_ticks c t ht h1
    refine ⟨k + 1, by omega, hT.trans (Ticks.stage (by exact ht) rfl ?_)⟩
    simp only [stageTick, tickFold2, Nat.lt_irrefl, if_false, ne_eq, zext_16]
    split <;> rfl
  by_cases hm : hdrMagic s.himg = 0xFFFAFFFA#32
  · obtain ⟨k, hk, hT⟩ := region1_ticks c s hc hl hm
    have hs : stageTick ⟨c, .fold1 2120⟩ { s with phase := .ck1, flight := some ⟨c, .fold1 2120⟩, cv := false, c1 := false, ck := cksum (s.src.read 0 2120), cur := 2120#64, held := true } =
      some (if cksum (s.src.read 0 2120) ≠ hdrCrc1 s.himg then raise c ⟨.crc1Mismatch, 0#32, (hdrCrc1 s.himg).zeroExtend 64, (cksum (s.src.read 0 2120)).zeroExtend 64, 0#64⟩
           { s with phase := .ck1, cv := false, c1 := false, ck := cksum (s.src.read 0 2120), cur := 2120#64, held := true }
         else beginRegion2 c { s with phase := .ck1, flight := some ⟨c, .fold1 2120⟩, cv := false, c1 := true, ck := cksum (s.src.read 0 2120), cur := 2120#64, held := true }) := by
      simp only [stageTick, tickFold1, Config.crc1Len, Nat.lt_irrefl, if_false, ne_eq, zext_16]
      split <;> rfl
    have hT1 := hT.trans (Ticks.stage (by exact hc) rfl hs)
    by_cases h1 : cksum (s.src.read 0 2120) ≠ hdrCrc1 s.himg
    · rw [if_pos h1] at hT1
      refine ⟨k + 1, by omega, ?_⟩
      · simp only [hm, decide_true, true_and, if_pos h1]
        exact hT1
    · rw [if_neg h1] at hT1
      obtain ⟨j, hj, hT2⟩ := tail { s with phase := .ck1, flight := some ⟨c, .fold1 2120⟩, cv := false, c1 := true, ck := cksum (s.src.read 0 2120), cur := 2120#64, held := true } hc hl
      refine ⟨k + 1 + j, by omega, ?_⟩
      simp only [hm, decide_true, true_and, if_neg h1, Bool.or_true, Bool.true_or] at hT2 ⊢
      exact hT1.trans hT2
  · have e : beginCksum c s = beginRegion2 c { s with cv := false, c1 := false } := by
      unfold beginCksum; rw [if_neg (fun h => hm ((zext_magic _).1 h))]
    rw [e]
    obtain ⟨j, hj, hT2⟩ := tail { s with cv := false, c1 := false } hc hl
    refine ⟨j, by omega, ?_⟩
    simp only [hm, decide_false, Bool.false_eq_true, false_and, if_false, Bool.or_false] at hT2 ⊢
    exact hT2

/-! What an extraction leaves, and what it leaves alone -/

theorem extractOne_phase (i : Nat) (D : List Byte) (s : State) (p : Phase) (x : Bool) :
    extractOne i D { s with phase := p, xd := x } = { extractOne i D s with phase := p, xd := x } := by
  unfold extractOne; split <;> rfl
theorem extractFrom_phase : ∀ (table : List (List Byte)) (i : Nat) (s : State) (p : Phase) (x : Bool),
    extractFrom i table { s with phase := p, xd := x } = { extractFrom i table s with phase := p, xd := x }
  | [], _, _, _, _ => rfl
  | D :: rest, i, s, p, x => by
    simp only [extractFrom, extractOne_phase]
    exact extractFrom_phase rest (i + 1) (extractOne i D s) p x
theorem extractFrom_frame : ∀ (table : List (List Byte)) (i : Nat) (s : State), Untouched s (extractFrom i table s) ∧ (extractFrom i table s).pt = s.pt ∧ (extractFrom i table s).phase = s.phase ∧ (extractFrom i table s).flight = s.flight
   ∧ (extractFrom i table s).errKind = s.errKind ∧ (extractFrom i table s).dopen = s.dopen
  | [], _, _ => ⟨.rfl, rfl, rfl, rfl, rfl, rfl⟩
  | D :: rest, i, s => by
    have h := extractFrom_frame rest (i+1) (extractOne i D s)
    have h0 : Untouched s (extractOne i D s) ∧ (extractOne i D s).pt = s.pt ∧ (extractOne i D s).phase = s.phase ∧ (extractOne i D s).flight = s.flight ∧ (extractOne i D s).errKind = s.errKind ∧ (extractOne i D s).dopen = s.dopen := by
      unfold extractOne; split
      · exact ⟨.rfl, rfl, rfl, rfl, rfl, rfl⟩
      · exact ⟨by constructor <;> exact Eq.refl _, rfl, rfl, rfl, rfl, rfl⟩
    simp only [extractFrom]
    exact ⟨h0.1.trans h.1, h.2.1.trans h0.2.1, h.2.2.1.trans h0.2.2.1, h.2.2.2.1.trans h0.2.2.2.1, h.2.2.2.2.1.trans h0.2.2.2.2.1, h.2.2.2.2.2.trans h0.2.2.2.2.2⟩

/-- X_BODY of a table whose payloads lie inside the source, every answer OK (R185, R194). -/
theorem extract_ticks (c : Instr) (s : State) (hc : Calm s) (hcl : s.dopen = false) (hp : s.pt.length < 2^32) (hx : extractable s s.pt) :
  ∃ k, k ≤ 2^66 ∧ Ticks k (beginExtract c s) (complete
      (let t := extractFrom 0 s.pt s
       { t with xd := true, held := false, ev := t.ev ++ (if t.held then [.srcRelease] else []) })) := by
  obtain ⟨k, hk, hT⟩ := parts_ticks c s.pt 0 (beginExtract c s) hc rfl rfl (Nat.zero_le _) hcl hx
  have e : extractFrom 0 s.pt (beginExtract c s) = { extractFrom 0 s.pt s with phase := .extract, xd := false, flight := some ⟨c, .part 0⟩ } := by
    have h1 := extractFrom_phase s.pt 0 { s with flight := some ⟨c, .part 0⟩ } .extract false
    rw [extractFrom_flight s.pt 0 s] at h1
    exact h1
  rw [e] at hT
  have hcalm : Calm (extractFrom 0 s.pt s) := (extractFrom_frame s.pt 0 s).1.calm hc
  have hpt : (extractFrom 0 s.pt s).pt = s.pt := (extractFrom_frame s.pt 0 s).2.1
  generalize extractFrom 0 s.pt s = t at hT hcalm hpt
  refine ⟨k + 1, ?_, hT.trans (Ticks.stage (by exact hcalm) rfl ?_)⟩
  · have : (3 * 2 ^ 32 + 3) * s.pt.length ≤ (3 * 2 ^ 32 + 3) * 2^32 := Nat.mul_le_mul_left _ (by omega)
    omega
  · have e1 : ¬ s.pt.length < t.pt.length := by rw [hpt]; omega
    simp only [stageTick, tickPart]
    rw [if_neg (by exact e1)]
    cases hh : t.held <;> simp [releaseIfHeld, complete, emit]

end Sys2Proof.Machine
end

