-- ==== Sys2Proof/Laws/Header.lean ====
section
/-! SUPPORT. What a micro-step does to HIMG, HV and ERR_KIND, said once: only HDR_BODY's read changes the first two, only
the end of an error entry the third. -/

namespace Sys2Proof.Machine

/-- What a micro-step other than HDR_BODY's read and the error entry's last keeps: HIMG and HV (R147, R38), and the error
kind (R236); and the command in flight does not stand at HDR_BODY's read afterwards. -/
structure KeepsHeader (s t : State) : Prop where
  himg : t.himg = s.himg
  hv : t.hv = s.hv
  errKind : t.errKind = s.errKind
  stage : ∀ g, t.flight = some g → g.stage ≠ .hdr

theorem complete_keepsHeader (s : State) : KeepsHeader s (complete s) := ⟨rfl, rfl, rfl, fun _ h => by cases h⟩
theorem raise_keepsHeader (c : Instr) (e : ErrInfo) (s : State) : KeepsHeader s (raise c e s) :=
  ⟨rfl, rfl, rfl, fun _ h => by cases h; exact Stage.noConfusion⟩
theorem goTo_keepsHeader {c : Instr} {st : Stage} {s : State} (h : st ≠ .hdr) : KeepsHeader s (goTo c st s) :=
  ⟨rfl, rfl, rfl, fun _ hg => by cases hg; exact h⟩
theorem beginStage_keepsHeader {ph : Phase} {c : Instr} {st : Stage} {s : State} (h : st ≠ .hdr) :
    KeepsHeader s (beginStage ph c st s) :=
  ⟨rfl, rfl, rfl, fun _ hg => by cases hg; exact h⟩

/-- A register update before one of these changes none of HIMG, HV and ERR_KIND. -/
theorem KeepsHeader.of {s r t : State} (h : KeepsHeader r t) (h1 : r.himg = s.himg) (h2 : r.hv = s.hv)
    (h3 : r.errKind = s.errKind) : KeepsHeader s t :=
  ⟨h.himg.trans h1, h.hv.trans h2, h.errKind.trans h3, h.stage⟩

theorem beginRegion2_keepsHeader (c : Instr) (s : State) : KeepsHeader s (beginRegion2 c s) :=
  (beginStage_keepsHeader Stage.noConfusion).of rfl rfl rfl
theorem beginCksum_keepsHeader (c : Instr) (s : State) : KeepsHeader s (beginCksum c s) := by
  unfold beginCksum
  split
  · exact (beginStage_keepsHeader Stage.noConfusion).of rfl rfl rfl
  · exact (beginRegion2_keepsHeader c _).of rfl rfl rfl
theorem beginTable_keepsHeader (c : Instr) (s : State) : KeepsHeader s (beginTable c s) :=
  (beginStage_keepsHeader Stage.noConfusion).of rfl rfl rfl
theorem beginExtract_keepsHeader (c : Instr) (s : State) : KeepsHeader s (beginExtract c s) :=
  (beginStage_keepsHeader Stage.noConfusion).of rfl rfl rfl
theorem beginStruct_keepsHeader (c : Instr) (s : State) : KeepsHeader s (beginStruct c s) :=
  (beginStage_keepsHeader Stage.noConfusion).of rfl rfl rfl
theorem afterHdr_keepsHeader (c : Instr) (s : State) : KeepsHeader s (afterHdr c s) := by
  unfold afterHdr
  split
  · exact beginStruct_keepsHeader _ _
  · exact complete_keepsHeader _
theorem afterStruct_keepsHeader (c : Instr) (s : State) : KeepsHeader s (afterStruct c s) := by
  unfold afterStruct
  split
  · exact beginCksum_keepsHeader _ _
  · exact beginTable_keepsHeader _ _
  · exact complete_keepsHeader _
theorem afterCksum_keepsHeader (c : Instr) (s : State) : KeepsHeader s (afterCksum c s) := by
  unfold afterCksum
  split
  · exact beginTable_keepsHeader _ _
  · exact complete_keepsHeader _
theorem afterTable_keepsHeader (c : Instr) (s : State) : KeepsHeader s (afterTable c s) := by
  unfold afterTable
  split
  · exact beginExtract_keepsHeader _ _
  · exact complete_keepsHeader _

theorem foldPiece_keepsHeader {c : Instr} {next : Nat → Stage} (h : ∀ n, next n ≠ .hdr) (p b : Nat) (s : State) :
    KeepsHeader s (foldPiece c next p b s) := by
  unfold foldPiece
  rcases memRead_cases 0#32 p (min (s.cchunk : Nat) (b - p)) s with ⟨_, hm⟩ | ⟨_, hm⟩ <;> simp only [hm]
  · exact raise_keepsHeader _ _ _
  · exact (goTo_keepsHeader (h _)).of rfl rfl rfl

theorem releaseIfHeld_header (s : State) :
    (releaseIfHeld s).himg = s.himg ∧ (releaseIfHeld s).hv = s.hv ∧ (releaseIfHeld s).errKind = s.errKind
      ∧ (releaseIfHeld s).flight = s.flight := by
  unfold releaseIfHeld; split <;> exact ⟨rfl, rfl, rfl, rfl⟩

theorem errorStep_header (e : ErrInfo) (s : State) :
    (errorStep e s).himg = s.himg ∧ (errorStep e s).hv = s.hv
      ∧ ((errorStep e s).errKind = s.errKind ∨ (errorStep e s).errKind = e.cause.kind)
      ∧ ((errorStep e s).flight = s.flight ∨ (errorStep e s).flight = none) := by
  unfold errorStep
  split
  · unfold closeIfOpen; split <;> exact ⟨rfl, rfl, .inl rfl, .inl rfl⟩
  · split
    · obtain ⟨h1, h2, h3, h4⟩ := releaseIfHeld_header s
      exact ⟨h1, h2, .inl h3, .inl h4⟩
    · exact ⟨rfl, rfl, .inr rfl, .inr rfl⟩

/-- Only HDR_BODY's read changes HIMG or HV within a command, and only the last micro-step of an error entry changes
ERR_KIND, to the kind of its cause (R147, R236). -/
theorem stageTick_header {c : Instr} {st : Stage} {s t : State} (hf : s.flight = some ⟨c, st⟩)
    (h : stageTick ⟨c, st⟩ s = some t) :
    (∀ g, t.flight = some g → g.stage ≠ .hdr)
    ∧ (t.himg = s.himg ∧ t.hv = s.hv
      ∨ st = .hdr ∧ t.himg = s.src.read 0 2124 ∧ t.hv = true ∧ 2124 ≤ s.len.toNat)
    ∧ (t.errKind = s.errKind ∨ ∃ e, st = .raising e ∧ t.errKind = e.cause.kind) := by
  have done : KeepsHeader s t → (∀ g, t.flight = some g → g.stage ≠ .hdr)
      ∧ (t.himg = s.himg ∧ t.hv = s.hv
        ∨ st = .hdr ∧ t.himg = s.src.read 0 2124 ∧ t.hv = true ∧ 2124 ≤ s.len.toNat)
      ∧ (t.errKind = s.errKind ∨ ∃ e, st = .raising e ∧ t.errKind = e.cause.kind) :=
    fun k => ⟨k.stage, .inl ⟨k.himg, k.hv⟩, .inl k.errKind⟩
  cases st with
  | ckReset => cases h; exact done ((complete_keepsHeader _).of rfl rfl rfl)
  | ckUpdate b => cases h; exact done ((complete_keepsHeader _).of rfl rfl rfl)
  | seek => cases h; exact done ((complete_keepsHeader _).of rfl rfl rfl)
  | rdU16 =>
    cases h
    refine done ?_
    unfold tickRdU16
    rcases memRead_cases 0#32 s.cur.toNat 2 s with ⟨_, hm⟩ | ⟨_, hm⟩ <;> simp only [hm]
    · exact raise_keepsHeader _ _ _
    · exact (complete_keepsHeader _).of rfl rfl rfl
  | rdU32 =>
    cases h
    refine done ?_
    unfold tickRdU32
    rcases memRead_cases 0#32 s.cur.toNat 4 s with ⟨_, hm⟩ | ⟨_, hm⟩ <;> simp only [hm]
    · exact raise_keepsHeader _ _ _
    · exact (complete_keepsHeader _).of rfl rfl rfl
  | rdText n =>
    cases h
    refine done ?_
    unfold tickRdText
    rcases memRead_cases 0#32 s.cur.toNat (2 * n.toNat) s with ⟨_, hm⟩ | ⟨_, hm⟩ <;> simp only [hm]
    · exact raise_keepsHeader _ _ _
    · exact (complete_keepsHeader _).of rfl rfl rfl
  | hdr =>
    by_cases hl : 2124 ≤ s.len.toNat
    · rw [hdr_tick _ _ hl] at h
      generalize s.src.read 0 2124 = H at h done ⊢
      cases h
      have k := afterHdr_keepsHeader c { s with himg := H, hv := true, cur := 2124#64, held := true }
      exact ⟨k.stage, .inr ⟨rfl, k.himg, k.hv, hl⟩, .inl k.errKind⟩
    · rw [hdr_short _ _ (by omega)] at h
      cases h
      exact done (raise_keepsHeader _ _ _)
  | struct =>
    cases h
    refine done ?_
    unfold tickStruct
    simp only
    split
    · exact raise_keepsHeader _ _ _
    · split
      · exact (raise_keepsHeader _ _ _).of rfl rfl rfl
      · exact (afterStruct_keepsHeader _ _).of rfl rfl rfl
  | fold1 p =>
    cases h
    refine done ?_
    unfold tickFold1
    split
    · exact foldPiece_keepsHeader (fun _ => Stage.noConfusion) _ _ _
    · split
      · exact raise_keepsHeader _ _ _
      · exact (beginRegion2_keepsHeader _ _).of rfl rfl rfl
  | fold2 p =>
    cases h
    refine done ?_
    unfold tickFold2
    split
    · exact foldPiece_keepsHeader (fun _ => Stage.noConfusion) _ _ _
    · split
      · exact raise_keepsHeader _ _ _
      · exact (afterCksum_keepsHeader _ _).of rfl rfl rfl
  | tabLen i =>
    cases h
    refine done ?_
    unfold tickTabLen
    split
    · rcases memRead_cases (indexWord i) (recordAddr s i) 4 s with ⟨_, hm⟩ | ⟨_, hm⟩ <;> simp only [hm]
      · exact raise_keepsHeader _ _ _
      · split
        · exact (raise_keepsHeader _ _ _).of rfl rfl rfl
        · exact (goTo_keepsHeader Stage.noConfusion).of rfl rfl rfl
    · exact (afterTable_keepsHeader _ _).of rfl rfl rfl
  | tabBody i W =>
    cases h
    refine done ?_
    unfold tickTabBody
    rcases memRead_cases (indexWord i) (recordAddr s i + 4) 2576 s with ⟨_, hm⟩ | ⟨_, hm⟩ <;> simp only [hm]
    · exact raise_keepsHeader _ _ _
    · exact (goTo_keepsHeader Stage.noConfusion).of rfl rfl rfl
  | part i =>
    simp only [stageTick, tickPart] at h
    split at h
    · split at h
      · cases h; exact done (goTo_keepsHeader Stage.noConfusion)
      · split at h
        · cases h
        · split at h <;> cases h
          · exact done ((goTo_keepsHeader Stage.noConfusion).of (by simp) (by simp) (by simp))
          · exact done ((raise_keepsHeader _ _ _).of (by simp) (by simp) (by simp))
          · exact done ((raise_keepsHeader _ _ _).of (by simp) (by simp) (by simp))
    · cases h
      obtain ⟨h1, h2, h3, _⟩ := releaseIfHeld_header { s with xd := true }
      exact done ((complete_keepsHeader _).of h1 h2 h3)
  | chunkRead i p rem size =>
    cases h
    refine done ?_
    unfold tickChunkRead
    split
    · exact (goTo_keepsHeader Stage.noConfusion).of rfl rfl rfl
    · rcases memRead_cases (indexWord i) p (min (s.xchunk : Nat) rem) s with ⟨_, hm⟩ | ⟨_, hm⟩ <;> simp only [hm]
      · exact raise_keepsHeader _ _ _
      · exact (goTo_keepsHeader Stage.noConfusion).of rfl rfl rfl
  | chunkWrite i p rem size B =>
    simp only [stageTick, tickChunkWrite] at h
    split at h
    · cases h
    · split at h <;> cases h
      · exact done ((goTo_keepsHeader Stage.noConfusion).of rfl rfl rfl)
      · exact done ((raise_keepsHeader _ _ _).of rfl rfl rfl)
  | progress i p rem size => cases h; exact done ((goTo_keepsHeader Stage.noConfusion).of rfl rfl rfl)
  | raising e =>
    cases h
    obtain ⟨h1, h2, h3, h4⟩ := errorStep_header e s
    refine ⟨fun g hg => ?_, .inl ⟨h1, h2⟩, h3.imp_right fun h => ⟨e, rfl, h⟩⟩
    rcases h4 with h4 | h4
    · cases hg.symm.trans (h4.trans hf); exact Stage.noConfusion
    · cases hg.symm.trans h4
end Sys2Proof.Machine
end

