-- ==== Sys2Proof/Laws/PerInstr.lean ====
section
/-! SUPPORT. Statements made of every command, one lemma per constructor of Instr. -/

namespace Sys2Proof

/-- The row of the opcode map with this mnemonic accepts the word, and RD_TEXT's extra condition holds (R88). -/
def rowAccepts (name : String) (w : Word32) : Bool :=
  opcodeMap.any (fun r => r.mnemonic = name && r.accepts w && (name != "RD_TEXT" || textLengthLegal (textField w)))

/-- The mnemonic of a command (R88). -/
def Instr.mnemonic : Instr → String
  | .ckReset => "CK_RESET"
  | .ckUpdate _ => "CK_UPDATE"
  | .seek => "SEEK"
  | .rdU16 => "RD_U16"
  | .rdU32 => "RD_U32"
  | .rdText _ => "RD_TEXT"
  | .hdrDecode => "HDR_DECODE"
  | .valStruct => "VAL_STRUCT"
  | .ptDecode => "PT_DECODE"
  | .valCksum => "VAL_CKSUM"
  | .extract => "EXTRACT"
  | .run _ => "RUN"
  | .init => "INIT"

/-- The word of a legal command is accepted by the row of its own mnemonic. -/
def Laws.EncodedInItsRow.Statement (i : Instr) : Prop := i.wf = true → rowAccepts i.mnemonic (encode i) = true

theorem Laws.EncodedInItsRow.ckReset : Laws.EncodedInItsRow.Statement .ckReset := fun _ => by decide

theorem Laws.EncodedInItsRow.ckUpdate (b : Byte) : Laws.EncodedInItsRow.Statement (.ckUpdate b) := fun _ => by
  revert b; decide +kernel

theorem Laws.EncodedInItsRow.seek : Laws.EncodedInItsRow.Statement .seek := fun _ => by decide

theorem Laws.EncodedInItsRow.rdU16 : Laws.EncodedInItsRow.Statement .rdU16 := fun _ => by decide

theorem Laws.EncodedInItsRow.rdU32 : Laws.EncodedInItsRow.Statement .rdU32 := fun _ => by decide

theorem Laws.EncodedInItsRow.rdText (n : BitVec 9) : Laws.EncodedInItsRow.Statement (.rdText n) := by
  unfold Laws.EncodedInItsRow.Statement; revert n; decide +kernel

theorem Laws.EncodedInItsRow.hdrDecode : Laws.EncodedInItsRow.Statement .hdrDecode := fun _ => by decide

theorem Laws.EncodedInItsRow.valStruct : Laws.EncodedInItsRow.Statement .valStruct := fun _ => by decide

theorem Laws.EncodedInItsRow.ptDecode : Laws.EncodedInItsRow.Statement .ptDecode := fun _ => by decide

theorem Laws.EncodedInItsRow.valCksum : Laws.EncodedInItsRow.Statement .valCksum := fun _ => by decide

theorem Laws.EncodedInItsRow.extract : Laws.EncodedInItsRow.Statement .extract := fun _ => by decide

theorem Laws.EncodedInItsRow.run (v : Bool) : Laws.EncodedInItsRow.Statement (.run v) := fun _ => by
  revert v; decide

theorem Laws.EncodedInItsRow.init : Laws.EncodedInItsRow.Statement .init := fun _ => by decide

end Sys2Proof
end

