-- ==== Sys2Proof/Tests/Slice0.lean ====
section
/-! SUPPORT. Tests. Expected values come from the spec's vectors (95_test_vectors.md, named V-... or P...) and tables. Then,
for every statement with hypotheses, a concrete state and operands that meet them. -/

namespace Sys2Proof.Tests

open Sys2Proof.Machine

/-! WellFormed -/

theorem test_wf_refuses_rd_text_0 : (Instr.rdText 0#9).wf = false := by decide
theorem test_wf_refuses_rd_text_257 : (Instr.rdText 257#9).wf = false := by decide
theorem test_wf_refuses_rd_text_511 : (Instr.rdText 511#9).wf = false := by decide
theorem test_wf_accepts_rd_text_1_and_256 : (Instr.rdText 1#9).wf = true ∧ (Instr.rdText 256#9).wf = true := by decide

/-! Decode: the words of 30_encoding.md R86, R88, R91 and of the vectors -/

theorem test_decode_ck_reset : decode 0x00000001#32 = .ok .ckReset := by decide
theorem test_decode_ck_update : decode 0x00004102#32 = .ok (.ckUpdate 0x41#8) := by decide
theorem test_decode_seek : decode 0x00000010#32 = .ok .seek := by decide
theorem test_decode_rd_u16 : decode 0x00000011#32 = .ok .rdU16 := by decide
theorem test_decode_rd_u32 : decode 0x00000012#32 = .ok .rdU32 := by decide
theorem test_decode_rd_text : decode 0x00180013#32 = .ok (.rdText 24#9) := by decide
theorem test_decode_rd_text_256 : decode 0x01000013#32 = .ok (.rdText 256#9) := by decide
theorem test_decode_hdr_decode : decode 0x00000020#32 = .ok .hdrDecode := by decide
theorem test_decode_val_struct : decode 0x00000021#32 = .ok .valStruct := by decide
theorem test_decode_pt_decode : decode 0x00000022#32 = .ok .ptDecode := by decide
theorem test_decode_val_cksum : decode 0x00000023#32 = .ok .valCksum := by decide
theorem test_decode_extract : decode 0x00000024#32 = .ok .extract := by decide
theorem test_decode_run_0 : decode 0x00000030#32 = .ok (.run false) := by decide
theorem test_decode_run_1 : decode 0x00000130#32 = .ok (.run true) := by decide
theorem test_decode_init : decode 0x0000003F#32 = .ok .init := by decide
/-- V-K9 -/
theorem test_decode_run_reserved : decode 0x00000230#32 = .error (.reservedBits 0x00000230#32) := by decide
/-- V-R14, V-R15 -/
theorem test_decode_rd_text_illegal : decode 0x00000013#32 = .error (.textLength 0#9)
    ∧ decode 0x01010013#32 = .error (.textLength 257#9) := by decide
theorem test_decode_table_word : decodeTableWord 32 0x00180013 = some (.rdText 24#9) := by decide

/-! Record layouts: the offset columns of R96 and R99 -/

theorem test_header_offsets : (packedOffsets 0 headerLayout).map Prod.snd =
    [0, 48, 52, 564, 1076, 1080, 1084, 1088, 1092, 1096, 1100, 1104, 1304, 1308, 1312, 1316, 2116, 2120, 2122] := by
  decide
theorem test_descriptor_offsets : (packedOffsets 0 descriptorLayout).map Prod.snd =
    [0, 4, 516, 1028, 1540, 1544, 1548, 1552, 1556, 1560, 1564, 1584] := by decide

/-! States of the vectors -/

/-- The state a step or a command leaves, if it leaves one. -/
def after (o : Host.Outcome State Fault Refusal) : Option State :=
  match o with
  | .next t => some t
  | .fault _ => none
  | .refused _ => none

/-- A source of a few bytes from offset 0. -/
def small (bytes : List Byte) (len : Word64) : State :=
  { State.reset with src := bytes.mapIdx (fun i b => (i, b)), len := len }

/-- MC, the minimal container of 95_test_vectors.md section 2. -/
def mcCells : Memory :=
  [(0, 0x42#8), (2, 0x50#8), (4, 0x5F#8), (6, 0x52#8), (8, 0x31#8), (10, 0x2E#8), (12, 0x30#8), (14, 0x2E#8),
   (16, 0x30#8), (48, 0x64#8), (49, 0x12#8), (1076, 0x01#8), (1080, 0x4C#8), (1081, 0x08#8), (2116, 0xFA#8),
   (2117, 0xFF#8), (2118, 0xFA#8), (2119, 0xFF#8), (2124, 0x14#8), (2125, 0x0A#8), (2640, 0x62#8), (2642, 0x6F#8),
   (2644, 0x6F#8), (2646, 0x74#8), (2648, 0x2E#8), (2650, 0x69#8), (2652, 0x6D#8), (2654, 0x67#8), (3664, 0x04#8),
   (3676, 0x60#8), (3677, 0x12#8), (4704, 0xDE#8), (4705, 0xAD#8), (4706, 0xBE#8), (4707, 0xEF#8)]

/-- MC presented after reset, with XCHUNK = x and a host that answers OK. -/
def mc (x : ℕ+) : State :=
  { State.reset with
    src := mcCells, len := 4708#64, xchunk := x, cchunk := 1000, openAnswers := [.ok]
    writeAnswers := [.ok, .ok, .ok, .ok] }

/-- MC with its header in HIMG and the structural check passed. -/
def mcChecked : State := { mc 4 with hv := true, sv := true, himg := mcCells.read 0 2124, held := true, cur := 2124#64 }

/-- MC with its table decoded. -/
def mcDecoded (x : ℕ+) : State :=
  { mc x with
    hv := true, sv := true, tv := true, himg := mcCells.read 0 2124, pt := [mcCells.read 2124 2580], held := true }

/-! One or two vectors for each command -/

/-- V-C7 -/
theorem test_ck_reset : (after (exec .ckReset { State.reset with ck := 0x1234#16 })).map (·.ck) = some Config.ckSeed := rfl
/-- V-C2 -/
theorem test_ck_update : (after (exec (.ckUpdate 0x41#8) State.reset)).map (·.ck)
    = some (Config.ckStep Config.ckSeed 0x41#8) := rfl
/-- V-R1 -/
theorem test_seek : (after (exec .seek { State.reset with arg := 0x438#64 })).map (fun t => (t.cur, t.held, t.ev))
    = some (0x438#64, false, []) := by decide
/-- V-R3 -/
theorem test_rd_u16 : (after (exec .rdU16 (small [0x34#8, 0x12#8] 2#64))).map (fun t => (t.result, t.cur, t.held))
    = some (0x1234#32, 2#64, true) := by decide
/-- V-R5 -/
theorem test_rd_u16_short : (after (exec .rdU16 { small [] 10#64 with cur := 9#64 })).map
    (fun t => (errWord t, t.errOff, t.errExp, t.errGot, t.cur)) = some (0x2103#32, 9#64, 2#64, 1#64, 9#64) := by decide
/-- V-R2 -/
theorem test_rd_u32 : (after (exec .rdU32 { mc 4 with cur := 0x30#64 })).map (fun t => (t.result, t.cur))
    = some (0x1264#32, 0x34#64) := by decide +kernel
/-- V-R6 -/
theorem test_rd_u32_short : (after (exec .rdU32 { small [] 10#64 with cur := 12#64 })).map
    (fun t => (errWord t, t.errOff, t.errExp, t.errGot)) = some (0x2103#32, 12#64, 4#64, 0#64) := by decide
/-- V-R9: the interior NUL is kept -/
theorem test_rd_text : (after (exec (.rdText 5#9)
      (small [0x41#8, 0#8, 0#8, 0#8, 0x42#8, 0#8, 0x20#8, 0#8, 0#8, 0#8] 10#64))).map (fun t => (t.tlen, t.cur))
    = some (3#9, 10#64) := by decide +kernel
/-- V-R15 -/
theorem test_rd_text_illegal : (after (step (State.reset.withFetchWord 32 0x01010013))).map
    (fun t => (errWord t, t.errGot)) = some (0x4105#32, 0x01010013#64) := by decide
/-- V-HD1 -/
theorem test_hdr_decode_short : (after (exec .hdrDecode (small [] 2123#64))).map
    (fun t => (errWord t, t.errExp, t.errGot, t.held)) = some (0x0101#32, 2124#64, 2123#64, false) := by decide
/-- V-HD3 -/
theorem test_hdr_decode : (after (exec .hdrDecode (mc 4))).map
    (fun t => (himgWindow t 48, himgWindow t 1076, himgWindow t 1080, himgWindow t 2116))
    = some (0x1264#32, 1#32, 0x84C#32, 0xFFFAFFFA#32) := by decide +kernel
/-- V-VS2 -/
theorem test_val_struct : (after (exec .valStruct { mcChecked with sv := false })).map (fun t => (statusWord t, t.tlen))
    = some (0x230#32, 9#9) := by decide +kernel
/-- V-VS11 -/
theorem test_val_struct_sequence : (after (exec .valStruct State.reset)).map (fun t => (errWord t, t.errExp, t.errGot))
    = some (0x4205#32, 0x10#64, 0x21#64) := by decide
/-- V-PD1 -/
theorem test_pt_decode : (after (exec .ptDecode mcChecked)).map
    (fun t => (t.tv, t.cur, dimgWindow t 0, dimgWindow t 1540, dimgWindow t 1552, dimgWindow t 516))
    = some (true, 4704#64, 0xA14#32, 4#32, 0x1260#32, 0x006F0062#32) := by decide +kernel
/-- The name of V-X1: "boot.img", from the units a descriptor's fileName field holds -/
theorem test_file_name : trimUnits Config.padDefault
      ([0x62#16, 0x6F#16, 0x6F#16, 0x74#16, 0x2E#16, 0x69#16, 0x6D#16, 0x67#16] ++ zeroUnits 248)
    = [0x62#16, 0x6F#16, 0x6F#16, 0x74#16, 0x2E#16, 0x69#16, 0x6D#16, 0x67#16] := by decide +kernel
/-- V-PD3 -/
theorem test_pt_decode_reclen : (after (exec .ptDecode { mcChecked with src := Memory.set mcCells 2124 0x15#8 })).map
    (fun t => (errWord t, t.errExp, t.errGot, t.errIdx, t.cur)) = some (0x0401#32, 2580#64, 2581#64, 0#32, 2128#64) := by
  decide +kernel
/-- V-VC7 -/
theorem test_val_cksum_sequence : (after (exec .valCksum { State.reset with hv := true })).map (fun t => (errWord t, t.errExp))
    = some (0x4205#32, 0x20#64) := by decide
/-- V-X1 -/
theorem test_extract : (after (exec .extract (mcDecoded 4))).map (fun t => t.ev.drop 1)
    = some [.dstWrite [0xDE#8, 0xAD#8, 0xBE#8, 0xEF#8], .progress 0#32 100#7, .dstClose, .srcRelease] := by
  decide +kernel
/-- V-X13 -/
theorem test_extract_write_error : (after (exec .extract { mcDecoded 2 with writeAnswers := [.ok, .ioerr] })).map
    (fun t => (t.ev.drop 2, errWord t, t.errOff, t.errExp))
    = some ([.progress 0#32 50#7, .dstWrite [0xBE#8, 0xEF#8], .dstClose, .srcRelease], 0x2303#32, 4706#64, 2#64) := by
  decide +kernel
/-- P3 -/
theorem test_run : (after (exec (.run false) (mc 4))).map (fun t => (statusWord t, t.cur, t.prog, t.pidx))
    = some (0x72#32, 4708#64, 100#7, 0#32) := by decide +kernel
/-- P7 -/
theorem test_run_size_mismatch : (after (exec (.run true) { mc 4 with len := 4709#64 })).map
    (fun t => (errWord t, statusWord t, t.cur, t.ev)) = some (0x0201#32, 0x8014#32, 2124#64, [.srcRelease]) := by
  decide +kernel
/-- V-K6, with EXTRACT in flight -/
theorem test_init : (after (exec .init { mcDecoded 1 with phase := .extract, dopen := true
                                                          flight := some ⟨.extract, .chunkRead 0 4706 2 4⟩ })).map
    (fun t => (statusWord t, t.ev)) = some (0#32, [.dstClose, .srcRelease]) := by decide +kernel
/-- V-K1 by a command word -/
theorem test_word_out_of_order : (after (step (State.reset.withFetchWord 32 0x24))).map (fun t => (statusWord t, t.errExp))
    = some (0x8004#32, 0x40#64) := by decide
/-- P2: the program's writes, one thing the host does in each step -/
theorem test_program_p2 : (after (Host.Core.run core 4 { mc 4 with
      inbox := [.write 0x028 0x30#32, .write 0x000 0x10#32, .wait, .write 0x000 0x11#32] })).map
    (fun t => (t.result, t.cur, statusWord t)) = some (0x1264#32, 0x32#64, 0x200#32) := by decide +kernel

/-! Witnesses: for each statement with hypotheses, states and operands that meet all of them, at the ends of their ranges.
`Ready State.reset` and its like serve every statement from a ready state. -/

theorem ready_reset : Ready State.reset := ⟨rfl, rfl, rfl, rfl, rfl, rfl⟩
theorem ready_small (bytes : List Byte) (len : Word64) : Ready (small bytes len) := ⟨rfl, rfl, rfl, rfl, rfl, rfl⟩
theorem ready_mcChecked : Ready mcChecked := ⟨rfl, rfl, rfl, rfl, rfl, rfl⟩
theorem ready_mcDecoded (x : ℕ+) : Ready (mcDecoded x) := ⟨rfl, rfl, rfl, rfl, rfl, rfl⟩

/-- The host's next acts on a state. -/
def doing (acts : List HostAct) (s : State) : State := { s with inbox := acts }

/-- A SEEK in flight after reset. -/
def seeking : State := { State.reset with phase := .prim, flight := some ⟨.seek, .seek⟩ }

/-- FAILED after V-K1. -/
def failedState : State := failedWith ⟨.sequence, 0#32, 0x40#64, 0x24#64, 0#64⟩ State.reset

theorem witness_DecodedWordIsItsEncoding : decode 0x01000013#32 = .ok (.rdText 256#9) := by decide

theorem witness_StepRunsTheWordWritten : (State.reset.withFetchWord 32 0x10).inbox = .write 0x000 0x10#32 :: []
    ∧ decode 0x10#32 = .ok .seek := by decide

/-- An unknown opcode, and RD_TEXT with the least N above its range, are the encodings of nothing legal. -/
theorem witness_IllegalWord_words : (∀ i : Instr, i.wf = true → encode i ≠ 0x000000FF#32)
    ∧ ∀ i : Instr, i.wf = true → encode i ≠ 0x01010013#32 := by
  constructor <;> intro i
  · cases i with
    | ckUpdate b => intro _; revert b; decide +kernel
    | rdText n => revert n; decide +kernel
    | run v => intro _; revert v; decide
    | _ => decide
  · cases i with
    | ckUpdate b => intro _; revert b; decide +kernel
    | rdText n => revert n; decide +kernel
    | run v => intro _; revert v; decide
    | _ => decide

theorem witness_IllegalWord_phases : State.reset.phase = .idle ∧ seeking.busy = true ∧ failedState.phase = .failed := by
  decide

theorem witness_MissingMilestone : State.reset.phase = .idle ∧ State.reset.hv = false ∧ State.reset.sv = false
    ∧ State.reset.tv = false := by decide

theorem witness_BusyWrites_write : (doing [.write 0x028 7#32] seeking).busy = true ∧ 0x028 % 4 = 0
    ∧ ¬ (0x028 = 0x000 ∧ (7#32 : Word32) = 0x3F#32) := by decide
theorem witness_BusyWrites_command : (doing [.write 0x000 1#32] seeking).busy = true ∧ 0x000 % 4 = 0
    ∧ ¬ (0x000 = 0x000 ∧ (1#32 : Word32) = 0x3F#32) := by decide
theorem witness_BusyWrites_sticky : (doing [.tick] { seeking with ovr := true }).initPending = false
    ∧ isResetAct .tick = false ∧ (after (step (doing [.tick] { seeking with ovr := true }))).isSome = true := by decide

theorem witness_FailedRunsNothing : failedState.phase = .failed ∧ failedState.flight = none
    ∧ (0x30#32 : Word32) ≠ 0x3F#32 ∧ (after (step (doing [.write 0x000 0x30#32] failedState))).isSome = true
    ∧ isResetAct (.write 0x000 0x30#32) = false := by decide

theorem witness_IdleWrites : State.reset.busy = false ∧ 0x028 % 4 = 0 ∧ 0x02C % 4 = 0 ∧ 0x054 % 4 = 0 ∧ 0x038 % 4 = 0 := by
  decide

theorem witness_AcceptedCommandLeavesIdle : (doing [.tick] mcChecked).phase = .idle ∧ hostQuiet (doing [.tick] mcChecked) = false
    ∧ (doing [.tick] mcChecked).hv = true ∧ (doing [.tick] mcChecked).sv = true ∧ (doing [.tick] (mcDecoded 1)).tv = true
    ∧ (Instr.rdText 1#9).wf = true := by decide

theorem witness_CommandIsItsMicroSteps : (mc 4).inbox = [] := rfl

theorem witness_Reset_and_Init : (doing [.reset] seeking).inbox = .reset :: [] ∧ seeking.awaiting = false
    ∧ (doing [.reset] seeking).dopen = false := by decide

/-- A DstOpen that waits for its answer (U15). -/
theorem witness_Init_waiting : (engineTick { mcDecoded 4 with phase := .extract, flight := some ⟨.extract, .part 0⟩
                                                              openAnswers := [] }).map (·.awaiting) = some true := by
  decide +kernel

/-- The answer has come and INIT is pending. -/
theorem witness_Init_pending : (stageTick ⟨.seek, .seek⟩ { seeking with initPending := true }).isSome = true
    ∧ (engineTick { seeking with initPending := true }).isSome = true := by decide

/-- A read error being entered, with and without an open destination and a held source. -/
def raising (dopen held : Bool) : State :=
  { seeking with flight := some ⟨.rdU16, .raising ⟨.srcShort, 0#32, 2#64, 1#64, 9#64⟩⟩, dopen := dopen, held := held }

theorem witness_ErrorEntry : (raising true true).initPending = false ∧ (raising true true).dopen = true
    ∧ (raising false true).dopen = false ∧ (raising false true).held = true
    ∧ (raising false false).held = false ∧ (raising false false).inbox = [] := by decide

theorem witness_CommandSequence : (doing [.write 0x000 (encode .ckReset), .wait, .write 0x000 (encode (.ckUpdate 0x41#8)), .wait]
      State.reset).inbox
    = .write 0x000 (encode .ckReset) :: .wait
        :: [0x41#8].flatMap (fun b => [.write 0x000 (encode (.ckUpdate b)), .wait]) ++ [] := by decide

/-- Reads that end exactly at L, and reads one byte longer. -/
theorem witness_reader_ends : (0#64 : Word64).toNat + 2 ≤ (small [] 2#64).len.toNat ∧ 0 + 4 ≤ (small [] 4#64).len.toNat
    ∧ 0 + 2 * (256#9).toNat ≤ (small [] 512#64).len.toNat ∧ (small [] 1#64).len.toNat < 0 + 2
    ∧ (small [] 3#64).len.toNat < 0 + 4 ∧ (small [] 511#64).len.toNat < 0 + 2 * (256#9).toNat
    ∧ (small [] 1#64).len.toNat < 0 + 2 * (1#9).toNat := by decide

theorem witness_RdText_illegal : ¬ (1 ≤ (0#9).toNat ∧ (0#9).toNat ≤ 256) ∧ ¬ (1 ≤ (257#9).toNat ∧ (257#9).toNat ≤ 256)
    ∧ State.reset.phase = .idle := by decide

theorem witness_Trim : ([0x41#16, 0x20#16] : List CodeUnit) = [0x41#16] ++ [0x20#16]
    ∧ ∀ u ∈ ([0x20#16] : List CodeUnit), padUnit Config.padDefault u = true := by
  refine ⟨rfl, fun u hu => ?_⟩
  rw [List.mem_singleton.mp hu]
  decide

theorem witness_StoredText : (∀ u ∈ ([0x20#16] : List CodeUnit), padUnit Config.padDefault u = true)
    ∧ ∀ u, [0x41#16].getLast? = some u → padUnit Config.padDefault u = false := by
  refine ⟨witness_Trim.2, fun u hu => ?_⟩
  cases hu
  decide

theorem witness_Hdr_ends : 2124 ≤ (small [] 2124#64).len.toNat ∧ (small [] 2123#64).len.toNat < 2124 := by decide

theorem witness_Himg : (engineTick { mc 4 with phase := .hdr, flight := some ⟨.hdrDecode, .hdr⟩ }).map
    (fun t => himgWindow t 48 != himgWindow (mc 4) 48) = some true := by decide +kernel

theorem witness_Himg_step : (after (step ((mc 4).withFetchWord 32 0x20))).map
    (fun t => himgWindow t 48 != himgWindow (mc 4) 48) = some true := by decide +kernel

theorem witness_RecordsRoundTrip : (zeroBytes 2124).length = 2124 ∧ (zeroBytes 2580).length = 2580 := by simp

/-- MC's one record is good, and lies inside the source. -/
theorem witness_PtDecode : mcChecked.sv = true ∧ ∀ k, k < (hdrPartitionCount mcChecked.himg).toNat → goodRecord mcChecked k := by
  have h1 : (hdrPartitionCount mcChecked.himg).toNat = 1 := by decide +kernel
  have h : goodRecord mcChecked 0 := by unfold goodRecord; decide +kernel
  refine ⟨rfl, fun k hk => ?_⟩
  obtain rfl : k = 0 := by omega
  exact h

/-- The three ways record 0 fails: L inside its length word, its length field one too large, L one byte inside its body. -/
theorem witness_PtDecode_stops : 0 < (hdrPartitionCount mcChecked.himg).toNat
    ∧ ({ mcChecked with len := 2127#64 } : State).len.toNat < recordAddr { mcChecked with len := 2127#64 } 0 + 4
    ∧ recordAddr mcChecked 0 + 4 ≤ mcChecked.len.toNat
    ∧ le32 ((Memory.set mcCells 2124 0x15#8).read (recordAddr mcChecked 0) 4) 0 ≠ 2580#32
    ∧ le32 (mcCells.read (recordAddr mcChecked 0) 4) 0 = 2580#32
    ∧ ({ mcChecked with len := 4703#64 } : State).len.toNat < recordAddr { mcChecked with len := 4703#64 } 0 + 2580 := by
  decide +kernel

theorem witness_PtDecode_none : ({ State.reset with sv := true } : State).sv = true
    ∧ hdrPartitionCount State.reset.himg = 0#32 := by decide +kernel

theorem witness_ValStruct : mcChecked.hv = true := rfl

theorem witness_ValCksum : ({ small [] 2124#64 with sv := true } : State).sv = true ∧ 2124 ≤ (small [] 2124#64).len.toNat := by
  decide

/-- A header whose magic is 0, for a container of `size` bytes with crc2 = v and no partition. -/
def crcHeader (size : BitVec 16) (v : BitVec 16) : Memory :=
  [(0, 0x42#8), (2, 0x50#8), (4, 0x5F#8), (6, 0x52#8), (8, 0x31#8), (10, 0x2E#8), (12, 0x30#8), (14, 0x2E#8), (16, 0x30#8),
   (48, size.extractLsb' 0 8), (49, size.extractLsb' 8 8), (2122, v.extractLsb' 0 8), (2123, v.extractLsb' 8 8)]

theorem joined_bytes (v : BitVec 16) :
    (v.extractLsb' 0 8).zeroExtend 16 ||| ((v.extractLsb' 8 8).zeroExtend 16 <<< 8) = v := by
  apply BitVec.eq_of_getLsbD_eq
  intro k hk
  by_cases h : k < 8
  · simp [h, hk]
  · have h2 : k - 8 < 8 := by omega
    simp [h, hk, h2, show 8 + (k - 8) = k by omega]

theorem crcHeader_crc2 (m : Memory) (size v : BitVec 16) : hdrCrc2 ((crcHeader size v ++ m).read 0 2124) = v := by
  have h : ∀ i, i < 2124 → byteOf ((crcHeader size v ++ m).read 0 2124) i = (crcHeader size v ++ m).byteAt i := by
    intro i hi
    simp [byteOf, List.getD, Memory.read, hi]
  unfold hdrCrc2 le16
  rw [h 2122 (by omega), h 2123 (by omega)]
  exact joined_bytes v

/-- V-VC4's container: region 2 is empty and crc2 = CK_SEED. -/
def emptyRegion2 : State := small [] 2124#64
/-- The same as a whole run's source. -/
def verifiable : State := { emptyRegion2 with src := crcHeader 0x084C#16 Config.ckSeed ++ [] }

/-- RUN with V = 1: every hypothesis holds of V-VC4's container with a valid version, whatever CK_SEED is. -/
theorem witness_RunOfAGoodContainer_verified : Ready verifiable ∧ 2124 ≤ verifiable.len.toNat
    ∧ (hdrFileSize (verifiable.src.read 0 2124)).zeroExtend 64 = verifiable.len
    ∧ textOf verifiable.pad (verifiable.src.read 0 2124) 0 24 = Config.versionLit
    ∧ hdrMagic (verifiable.src.read 0 2124) ≠ 0xFFFAFFFA#32
    ∧ cksum (verifiable.src.read 2124 (verifiable.len.toNat - 2124)) = hdrCrc2 (verifiable.src.read 0 2124)
    ∧ (hdrPartitionCount (verifiable.src.read 0 2124)).toNat = 0 ∧ extractable verifiable [] := by
  refine ⟨⟨rfl, rfl, rfl, rfl, rfl, rfl⟩, by decide, by decide +kernel, by decide +kernel, by decide +kernel, ?_,
    by decide +kernel, ?_⟩
  · exact (crcHeader_crc2 [] 0x084C#16 Config.ckSeed).symm
  · exact ⟨fun _ h => (List.not_mem_nil h).elim, fun _ h => (List.not_mem_nil h).elim,
      fun _ h => (List.not_mem_nil h).elim, Nat.le_refl 0, Nat.le_refl 0⟩

/-- RUN with V = 0: MC. -/
theorem witness_RunOfAGoodContainer : Ready (mc 4) ∧ (hdrFileSize (mcCells.read 0 2124)).zeroExtend 64 = (mc 4).len
    ∧ textOf Config.padDefault (mcCells.read 0 2124) 0 24 = Config.versionLit
    ∧ extractable mcChecked (sourceTable mcChecked 1) := by
  refine ⟨⟨rfl, rfl, rfl, rfl, rfl, rfl⟩, by decide +kernel, by decide +kernel, ?_⟩
  have h : ∀ D ∈ sourceTable mcChecked 1, (pdPartitionAddr D).toNat + (pdPartitionSize D).toNat ≤ mcChecked.len.toNat := by
    decide +kernel
  refine ⟨fun D hD _ => h D hD, by decide, by decide, by decide +kernel, by decide +kernel⟩

theorem byteAt_append_other {k b : Nat} {x : Byte} (h : b ≠ k) : ∀ m : Memory, (m ++ [(k, x)]).byteAt b = m.byteAt b
  | [] => by simp [Memory.byteAt, Ne.symm h]
  | (j, y) :: m => by simp [Memory.byteAt, byteAt_append_other h m]

/-- A container of one byte after its header, whose crc2 is right; and the same with that byte changed. -/
def oneByte (x : Byte) : State :=
  { State.reset with
    src := crcHeader 0x084D#16 (Config.ckStep Config.ckSeed 0#8) ++ [(2124, x)], len := 2125#64 }

/-- Every hypothesis of the mutation statement but the one on CK_STEP, at the first and last byte of region 2. -/
theorem witness_SingleByteMutation : Ready (oneByte 1#8) ∧ (oneByte 1#8).len = (oneByte 0#8).len
    ∧ (oneByte 1#8).pad = (oneByte 0#8).pad ∧ 2124 ≤ 2124 ∧ 2124 < (oneByte 0#8).len.toNat
    ∧ (oneByte 1#8).src.byteAt 2124 ≠ (oneByte 0#8).src.byteAt 2124
    ∧ (∀ b, b ≠ 2124 → (oneByte 1#8).src.byteAt b = (oneByte 0#8).src.byteAt b)
    ∧ (hdrFileSize ((oneByte 0#8).src.read 0 2124)).zeroExtend 64 = (oneByte 0#8).len
    ∧ textOf (oneByte 0#8).pad ((oneByte 0#8).src.read 0 2124) 0 24 = Config.versionLit
    ∧ hdrMagic ((oneByte 0#8).src.read 0 2124) ≠ 0xFFFAFFFA#32
    ∧ cksum ((oneByte 0#8).src.read 2124 ((oneByte 0#8).len.toNat - 2124)) = hdrCrc2 ((oneByte 0#8).src.read 0 2124) := by
  refine ⟨⟨rfl, rfl, rfl, rfl, rfl, rfl⟩, rfl, rfl, Nat.le_refl _, by decide, by decide, fun b hb => ?_, by decide +kernel,
    by decide +kernel, by decide +kernel, ?_⟩
  · exact (byteAt_append_other hb _).trans (byteAt_append_other hb _).symm
  · exact (crcHeader_crc2 [(2124, 0#8)] 0x084D#16 (Config.ckStep Config.ckSeed 0#8)).symm

/-- A step function with the property R140 asks of CK_STEP exists: the state rotated by 8 and the byte added in. So the
hypothesis CK_DETECTS_SINGLE_BYTE is one a CK_STEP can meet. -/
theorem witness_CkDetectsSingleByte : ∃ f : BitVec 16 → Byte → BitVec 16,
    ∀ (c : BitVec 16) (A B : List Byte) (x y : Byte), x ≠ y →
      (A ++ x :: B).foldl f c ≠ (A ++ y :: B).foldl f c := by
  refine ⟨fun c b => c + b.zeroExtend 16, fun c A B x y h => ?_⟩
  simp only [List.foldl_append, List.foldl_cons]
  generalize A.foldl _ c = d
  have hne : d + x.zeroExtend 16 ≠ d + y.zeroExtend 16 := by
    intro he
    exact h (by bv_omega)
  revert hne
  generalize d + x.zeroExtend 16 = u
  generalize d + y.zeroExtend 16 = v
  revert u v
  induction B with
  | nil => exact fun u v h => h
  | cons b B ih => exact fun u v h => ih _ _ (fun he => h (by bv_omega))

theorem witness_ChecksumErrorsAreOptIn : Instr.seek ≠ .valCksum ∧ Instr.seek ≠ .run true
    ∧ (after (exec .seek { failedState with errKind := .checksum })).map (·.errKind) = some .checksum := by decide

/-- VAL_CKSUM entering CRC2_MISMATCH. -/
def mismatch : State :=
  { State.reset with
    phase := .ck2, hv := true, sv := true
    flight := some ⟨.valCksum, .raising ⟨.crc2Mismatch, 0#32, 1#64, 2#64, 0#64⟩⟩ }

/-- A state with the invariant whose micro-step, and step, latches a ChecksumError. -/
theorem witness_ChecksumErrors_latched : mismatch.Inv ∧ (engineTick mismatch).map (·.errKind) = some .checksum
    ∧ (after (step mismatch)).map (·.errKind) = some .checksum := by
  refine ⟨⟨⟨rfl, by decide⟩, ⟨length_zeroBytes 2124, length_zeroUnits 256, by decide⟩, by decide, ⟨by decide, by decide⟩,
    ⟨rfl, ?_⟩, ⟨by decide, by decide⟩, ⟨by decide, rfl⟩, ⟨by decide, by decide⟩, by decide, by decide, ?_⟩, by decide,
    by decide⟩
  · rintro f hf
    cases hf
    exact ⟨rfl, by decide, by decide, fun _ => .inl rfl⟩
  · intro e he
    cases he

theorem witness_Extract : (mcDecoded 1).tv = true ∧ (mcDecoded 1).pt.length < 2 ^ 32
    ∧ extractable (mcDecoded 1) (mcDecoded 1).pt := by
  have h : ∀ D ∈ (mcDecoded 1).pt, (pdPartitionAddr D).toNat + (pdPartitionSize D).toNat ≤ (mcDecoded 1).len.toNat := by
    decide +kernel
  refine ⟨rfl, by decide, fun D hD _ => h D hD, by decide, by decide, by decide +kernel, by decide +kernel⟩

/-- EXTRACT at the first partition of a table whose first record has size 0. -/
def atZeroSize : State :=
  { State.reset with phase := .extract, tv := true, pt := [zeroBytes 2580], flight := some ⟨.extract, .part 0⟩ }

theorem witness_ZeroSize : atZeroSize.initPending = false ∧ 0 < atZeroSize.pt.length
    ∧ pdPartitionSize (atZeroSize.pt.getD 0 []) = 0#32 := by decide +kernel

theorem witness_ChunksCover : ([0xDE#8] : List Byte) ≠ [] ∧ ([0xDE#8] : List Byte).length < 2 ^ 32 := by decide

/-- EXTRACT on MC at a stage, with the answers the host has given. -/
def extracting (st : Stage) (oa : List OpenAnswer) (wa : List WriteAnswer) (awaiting : Bool) : State :=
  { mcDecoded 4 with
    phase := .extract, flight := some ⟨.extract, st⟩, openAnswers := oa, writeAnswers := wa, awaiting := awaiting }

theorem witness_FailedTransactions_open : (extracting (.part 0) [.path] [] false).inbox = []
    ∧ (extracting (.part 0) [.path] [] false).initPending = false
    ∧ (extracting (.part 0) [.path] [] false).flight = some ⟨.extract, .part 0⟩
    ∧ 0 < (extracting (.part 0) [.path] [] false).pt.length
    ∧ pdPartitionSize ((extracting (.part 0) [.path] [] false).pt.getD 0 []) ≠ 0#32
    ∧ (extracting (.part 0) [.path] [] false).openAnswers = .path :: [] := by decide +kernel

/-- A chunk read one byte past L, whatever XCHUNK is. -/
theorem witness_FailedTransactions_read : (extracting (.chunkRead 0 4708 1 4) [] [] false).inbox = []
    ∧ (extracting (.chunkRead 0 4708 1 4) [] [] false).initPending = false
    ∧ (extracting (.chunkRead 0 4708 1 4) [] [] false).flight = some ⟨.extract, .chunkRead 0 4708 1 4⟩
    ∧ (extracting (.chunkRead 0 4708 1 4) [] [] false).len.toNat
      < 4708 + min ((extracting (.chunkRead 0 4708 1 4) [] [] false).xchunk : Nat) 1 :=
  ⟨rfl, rfl, rfl, by
    have h : (extracting (.chunkRead 0 4708 1 4) [] [] false).len.toNat = 4708 := by decide +kernel
    have := (extracting (.chunkRead 0 4708 1 4) [] [] false).xchunk.pos
    omega⟩

theorem witness_FailedTransactions_write : (extracting (.chunkWrite 0 4704 4 4 [1#8]) [] [.ioerr] false).inbox = []
    ∧ (extracting (.chunkWrite 0 4704 4 4 [1#8]) [] [.ioerr] false).initPending = false
    ∧ (extracting (.chunkWrite 0 4704 4 4 [1#8]) [] [.ioerr] false).flight
      = some ⟨.extract, .chunkWrite 0 4704 4 4 [1#8]⟩
    ∧ (extracting (.chunkWrite 0 4704 4 4 [1#8]) [] [.ioerr] false).writeAnswers = .ioerr :: [] := ⟨rfl, rfl, rfl, rfl⟩

/-- A DstOpen that has waited, before and after its answer. -/
theorem witness_AnsweredTransactions_open : (extracting (.part 0) [.ok] [] true).awaiting = true
    ∧ (extracting (.part 0) [.ok] [] true).inbox = [] ∧ (extracting (.part 0) [.ok] [] true).initPending = false
    ∧ (extracting (.part 0) [.ok] [] true).flight = some ⟨.extract, .part 0⟩
    ∧ 0 < (extracting (.part 0) [.ok] [] true).pt.length
    ∧ pdPartitionSize ((extracting (.part 0) [.ok] [] true).pt.getD 0 []) ≠ 0#32
    ∧ (extracting (.part 0) [.ok] [] true).openAnswers = .ok :: []
    ∧ (extracting (.part 0) [] [] true).openAnswers = []
    ∧ (doing [.answerOpen .ok] (extracting (.part 0) [] [] true)).inbox = .answerOpen .ok :: [] := by decide +kernel

/-- A DstWrite to an open destination that has waited, before and after its answer. -/
theorem witness_AnsweredTransactions_write :
    ({ extracting (.chunkWrite 0 4704 4 4 [1#8]) [] [.ok] true with dests := [⟨[], []⟩] } : State).dests = ⟨[], []⟩ :: []
    ∧ (extracting (.chunkWrite 0 4704 4 4 [1#8]) [] [.ok] true).inbox = []
    ∧ (extracting (.chunkWrite 0 4704 4 4 [1#8]) [] [.ok] true).initPending = false
    ∧ (extracting (.chunkWrite 0 4704 4 4 [1#8]) [] [.ok] true).flight
      = some ⟨.extract, .chunkWrite 0 4704 4 4 [1#8]⟩
    ∧ (extracting (.chunkWrite 0 4704 4 4 [1#8]) [] [.ok] true).writeAnswers = .ok :: []
    ∧ (extracting (.chunkWrite 0 4704 4 4 [1#8]) [] [] true).writeAnswers = []
    ∧ (doing [.answerWrite .ok] (extracting (.chunkWrite 0 4704 4 4 [1#8]) [] [] true)).inbox
      = .answerWrite .ok :: [] := ⟨rfl, rfl, rfl, rfl, rfl, rfl, rfl⟩

/-- A state with the invariant, busy: a SEEK in flight. -/
theorem witness_Inv_busy : seeking.Inv ∧ seeking.initPending = false ∧ (engineTick seeking).isSome = true
    ∧ (after (step seeking)).isSome = true := by
  refine ⟨⟨⟨rfl, by decide⟩, ⟨length_zeroBytes 2124, length_zeroUnits 256, by decide⟩, by decide, ⟨by decide, by decide⟩,
    ⟨rfl, ?_⟩, ⟨by decide, by decide⟩, ⟨by decide, rfl⟩, ⟨by decide, by decide⟩, by decide, by decide, ?_⟩, rfl, rfl, rfl⟩
  · rintro f hf
    cases hf
    exact ⟨rfl, rfl, rfl⟩
  · intro e he
    cases he

/-- A state with the invariant, idle and quiet, that runs a command. -/
theorem witness_Inv_idle : ({ State.reset with arg := 5#64 } : State).Inv
    ∧ hostQuiet { State.reset with arg := 5#64 } = true
    ∧ (after (exec .seek { State.reset with arg := 5#64 })).isSome = true := by
  refine ⟨⟨⟨rfl, by decide⟩, ⟨length_zeroBytes 2124, length_zeroUnits 256, by decide⟩, by decide, ⟨by decide, by decide⟩,
    ⟨rfl, ?_⟩, ⟨by decide, by decide⟩, ⟨by decide, rfl⟩, ⟨by decide, by decide⟩, by decide, by decide, ?_⟩, rfl, by decide⟩
  · rintro f hf
    cases hf
  · intro e he
    cases he

/-- RUN's five commands one by one on MC, and on a container with no header. -/
theorem witness_RunIsTheFive : (after (stepwiseRun false (mc 4))).map (·.busy) = some false
    ∧ (after (stepwiseRun true (small [] 2123#64))).map (·.busy) = some false := by decide +kernel

theorem witness_map_ends : (doing [.read 0x1848] State.reset).busy = false ∧ 530 ≤ 530 ∧ 0x1848 = 0x1000 + 4 * 530
    ∧ 0x2A10 = 0x2000 + 4 * 644 ∧ 0x31FC = 0x3000 + 4 * 127 ∧ 0x05C % 4 = 0 ∧ ¬ (0x1000 ≤ 0x184C ∧ 0x184C ≤ 0x1848) := by
  decide

theorem witness_busy_reads : (doing [.read 0x044] seeking).busy = true ∧ 0x044 % 4 = 0 ∧ 0x31FC % 4 = 0
    ∧ 0x000 % 4 = 0 ∧ 0x05C % 4 = 0 ∧ 0x05C ≤ 0x05C ∧ ¬ (0x1000 ≤ 0x05C ∧ 0x05C ≤ 0x1848) ∧ 0x3200 % 4 = 0
    ∧ ¬ (0x3000 ≤ 0x3200 ∧ 0x3200 ≤ 0x31FC) := by decide

theorem witness_Reads : (doing [.read 0x004] seeking).inbox = .read 0x004 :: [] ∧ 0x002 % 4 ≠ 0 := by decide

theorem witness_Present : (doing [.present [(0, 1#8), (3, 2#8)] 4#64] State.reset).held = false
    ∧ ([(0, 1#8), (3, 2#8)].map Prod.fst : List Nat).Nodup ∧ (doing [.present [] 0#64] (mcDecoded 1)).held = true := by decide

theorem witness_Commands : (after (exec .rdU16 (small [1#8, 2#8] 2#64))).isSome = true ∧ State.reset.initPending = false := by
  decide

end Sys2Proof.Tests
end

namespace Sys2Proof.Machine

/-! The decoding primitives of R16: the weighted sums of LE16 and LE32, and what TRIM removes. -/

/-! Little-endian integers -/

/-- Widening a byte keeps its value (R14). -/
theorem toNat_zeroExtend_byte {w : Nat} (hw : 8 ≤ w) (b : Byte) : (b.zeroExtend w).toNat = b.toNat :=
  BitVec.toNat_setWidth_of_le hw

/-- A byte put above the k low bits of a value adds 2^k times the byte. -/
theorem toNat_or_shiftLeft_byte {w : Nat} (k : Nat) {x : BitVec w} (b : Byte) (hx : x.toNat < 2 ^ k)
    (hk : k + 8 ≤ w) : (x ||| (b.zeroExtend w <<< k)).toNat = x.toNat + 2 ^ k * b.toNat := by
  have hfits : 2 ^ k * b.toNat < 2 ^ w := calc
    2 ^ k * b.toNat < 2 ^ k * 2 ^ 8 := Nat.mul_lt_mul_of_pos_left b.isLt (Nat.two_pow_pos k)
    _ = 2 ^ (k + 8) := (Nat.pow_add 2 k 8).symm
    _ ≤ 2 ^ w := Nat.pow_le_pow_right (by decide) hk
  rw [BitVec.toNat_or, BitVec.toNat_shiftLeft, toNat_zeroExtend_byte (by omega), Nat.shiftLeft_eq, Nat.mul_comm,
    Nat.mod_eq_of_lt hfits, Nat.or_comm, ← Nat.two_pow_add_eq_or_of_lt hx, Nat.add_comm]

/-- LE16 is the weighted sum of its two bytes (R16). -/
theorem toNat_le16 (B : List Byte) (o : Nat) :
    (le16 B o).toNat = (byteOf B o).toNat + 256 * (byteOf B (o + 1)).toNat := by
  have h0 := toNat_zeroExtend_byte (w := 16) (by decide) (byteOf B o)
  have h1 := toNat_or_shiftLeft_byte 8 (byteOf B (o + 1)) (h0.trans_lt (by omega)) (by decide)
  unfold le16
  omega

/-- LE32 is the weighted sum of its four bytes (R16). -/
theorem toNat_le32 (B : List Byte) (o : Nat) :
    (le32 B o).toNat = (byteOf B o).toNat + 256 * (byteOf B (o + 1)).toNat
      + 65536 * (byteOf B (o + 2)).toNat + 16777216 * (byteOf B (o + 3)).toNat := by
  have h0 := toNat_zeroExtend_byte (w := 32) (by decide) (byteOf B o)
  have h1 := toNat_or_shiftLeft_byte 8 (byteOf B (o + 1)) (h0.trans_lt (by omega)) (by decide)
  have h2 := toNat_or_shiftLeft_byte 16 (byteOf B (o + 2)) (h1.trans_lt (by omega)) (by decide)
  have h3 := toNat_or_shiftLeft_byte 24 (byteOf B (o + 3)) (h2.trans_lt (by omega)) (by decide)
  unfold le32
  omega

/-- The low half of LE32 is LE16 of its two low bytes (R65). -/
theorem le16_eq_extract_low (B : List Byte) (o : Nat) : le16 B o = (le32 B o).extractLsb' 0 16 := by
  apply BitVec.eq_of_toNat_eq
  rw [BitVec.extractLsb'_toNat, toNat_le32, toNat_le16, Nat.shiftRight_zero]
  omega

/-- The high half of LE32 is LE16 of its two high bytes (R65). -/
theorem le16_eq_extract_high (B : List Byte) (o : Nat) : le16 B (o + 2) = (le32 B o).extractLsb' 16 16 := by
  apply BitVec.eq_of_toNat_eq
  rw [BitVec.extractLsb'_toNat, toNat_le32, toNat_le16, Nat.shiftRight_eq_div_pow, Nat.add_assoc o 2 1]
  omega

/-- Settles O29: the two sums are computed byte by byte, and the views follow from them. -/
theorem littleEndianViewsAgree : Obligations.LittleEndianViewsAgree := fun B o =>
  ⟨toNat_le16 B o, toNat_le32 B o, le16_eq_extract_low B o, le16_eq_extract_high B o⟩

/-! TRIM -/

/-- What TRIM removes is PAD units only (R16). -/
theorem trimUnits_append_pads (p : PadRule) (U : List CodeUnit) :
    ∃ R, U = trimUnits p U ++ R ∧ ∀ u ∈ R, padUnit p u = true :=
  ⟨U.rtakeWhile (padUnit p), List.rdropWhile_append_rtakeWhile.symm, fun _ hu => List.mem_rtakeWhile_imp hu⟩

/-- PAD units at the end do not change TRIM (R16). -/
theorem trimUnits_append {p : PadRule} {R : List CodeUnit} (hR : ∀ u ∈ R, padUnit p u = true) (P : List CodeUnit) :
    trimUnits p (P ++ R) = trimUnits p P := by
  have hrev : ∀ u ∈ R.reverse, padUnit p u = true := fun u hu => hR u (List.mem_reverse.mp hu)
  rw [trimUnits, List.reverse_append, List.dropWhile_append_of_pos hrev, trimUnits]

/-- TRIM never lengthens (R16). -/
theorem length_trimUnits_le (p : PadRule) (U : List CodeUnit) : (trimUnits p U).length ≤ U.length :=
  (List.rdropWhile_prefix (padUnit p) U).length_le

/-- Settles O28: TRIM of `P ++ R` is TRIM of P when R is PAD units only, so it is no longer than P. -/
theorem trimIsTheShortestText : Obligations.TrimIsTheShortestText := by
  intro p U
  refine ⟨trimUnits_append_pads p U, ?_⟩
  rintro P R rfl hR
  rw [trimUnits_append hR]
  exact length_trimUnits_le p P

end Sys2Proof.Machine

namespace Sys2Proof.Machine

/-! What a command leaves of the host's side (R17, R29, R36, R252): by micro-step, by drained command, by acceptance. -/

/-- The source, L, the parameters, and what the host has read and will do are the same. -/
structure SameHostInputs (s t : State) : Prop where
  src : t.src = s.src
  len : t.len = s.len
  xchunk : t.xchunk = s.xchunk
  cchunk : t.cchunk = s.cchunk
  pad : t.pad = s.pad
  reads : t.reads = s.reads
  inbox : t.inbox = s.inbox
  draws : t.draws = s.draws

/-- The host's inputs are the same and, unless an INIT is pending, so are the registers the host alone writes, ARG and
PT_SEL, and no INIT becomes pending. -/
structure CommandFrame (s t : State) : Prop where
  inputs : SameHostInputs s t
  operands : s.initPending = false → t.arg = s.arg ∧ t.ptSel = s.ptSel ∧ t.initPending = false

theorem SameHostInputs.trans {s t u : State} (h : SameHostInputs s t) (k : SameHostInputs t u) : SameHostInputs s u where
  src := k.src.trans h.src
  len := k.len.trans h.len
  xchunk := k.xchunk.trans h.xchunk
  cchunk := k.cchunk.trans h.cchunk
  pad := k.pad.trans h.pad
  reads := k.reads.trans h.reads
  inbox := k.inbox.trans h.inbox
  draws := k.draws.trans h.draws

theorem CommandFrame.trans {s t u : State} (h : CommandFrame s t) (k : CommandFrame t u) : CommandFrame s u where
  inputs := h.inputs.trans k.inputs
  operands hi := by
    obtain ⟨harg, hsel, hpend⟩ := h.operands hi
    obtain ⟨karg, ksel, kpend⟩ := k.operands hpend
    exact ⟨karg.trans harg, ksel.trans hsel, kpend⟩

theorem Untouched.sameHostInputs {s t : State} (h : Untouched s t) : SameHostInputs s t :=
  ⟨h.src, h.len, h.xchunk, h.cchunk, h.pad, h.reads, h.inbox, h.draws⟩

theorem Untouched.commandFrame {s t : State} (h : Untouched s t) : CommandFrame s t :=
  ⟨h.sameHostInputs, fun hi => ⟨h.arg, h.ptSel, h.initPending.trans hi⟩⟩

theorem setAwaiting_commandFrame (b : Bool) (s : State) : CommandFrame s { s with awaiting := b } :=
  ⟨⟨rfl, rfl, rfl, rfl, rfl, rfl, rfl, rfl⟩, fun hi => ⟨rfl, rfl, hi⟩⟩

theorem refuseBusy_commandFrame (s : State) : CommandFrame s (refuseBusy s) :=
  ⟨⟨rfl, rfl, rfl, rfl, rfl, rfl, rfl, rfl⟩, fun hi => ⟨rfl, rfl, hi⟩⟩

theorem failedWith_commandFrame (e : ErrInfo) (s : State) : CommandFrame s (failedWith e s) :=
  takeError_eq e s ▸ (takeError_untouched e s).commandFrame

/-- INIT resets registers, and neither they nor its two transactions are the host's inputs (R216, R252). -/
theorem performInit_sameHostInputs (s : State) : SameHostInputs s (performInit s) :=
  ((closeIfOpen_untouched s).trans (releaseIfHeld_untouched _)).sameHostInputs.trans
    ⟨rfl, rfl, rfl, rfl, rfl, rfl, rfl, rfl⟩

/-- INIT, performed or kept pending, leaves the host's inputs. -/
theorem execInit_sameHostInputs {s t : State} (h : execInit s = .next t) : SameHostInputs s t := by
  unfold execInit at h
  split at h
  · cases h
    exact ⟨rfl, rfl, rfl, rfl, rfl, rfl, rfl, rfl⟩
  · cases h
    exact performInit_sameHostInputs s

/-- A micro-step, with the pending INIT that may follow it. -/
theorem engineTick_commandFrame {s t : State} (h : engineTick s = some t) : CommandFrame s t := by
  obtain ⟨f, _, ⟨u, _, hu, hend⟩ | ⟨_, _, rfl⟩⟩ := engineTick_cases h
  · have hstage : CommandFrame s { u with awaiting := false } := hu.commandFrame.trans (setAwaiting_commandFrame _ u)
    obtain ⟨_, rfl⟩ | ⟨hi, rfl⟩ := hend
    · exact hstage
    · exact ⟨hstage.inputs.trans (performInit_sameHostInputs _), fun hi' => by simp [hi] at hi'⟩
  · exact setAwaiting_commandFrame true s

/-- A command just started, run to its end or left in flight. -/
theorem settle_commandFrame (s : State) : CommandFrame s (settle s) := by
  unfold settle
  split
  · exact drain_induct (P := CommandFrame s) (fun _ _ hk ht => hk.trans (engineTick_commandFrame ht)) _
      Untouched.rfl.commandFrame
  · exact Untouched.rfl.commandFrame

/-- Acceptance, in every phase (R205). -/
theorem accept_commandFrame (c : Instr) {start : State → State} (hstart : ∀ u, Untouched u (start u)) (s : State) :
    CommandFrame s (accept c start s) := by
  obtain ⟨_, ht⟩ | ⟨_, ht⟩ | ⟨m, _, _, ht⟩ | ⟨_, _, ht⟩ := accept_cases c start s <;> rw [ht]
  · exact Untouched.rfl.commandFrame
  · exact refuseBusy_commandFrame s
  · exact failedWith_commandFrame _ s
  · exact (hstart s).commandFrame.trans (settle_commandFrame _)

theorem acceptIllegal_commandFrame (w : Word32) (s : State) : CommandFrame s (acceptIllegal w s) := by
  obtain ⟨_, ht⟩ | ⟨_, ht⟩ | ⟨_, ht⟩ := acceptIllegal_cases w s <;> rw [ht]
  · exact Untouched.rfl.commandFrame
  · exact refuseBusy_commandFrame s
  · exact failedWith_commandFrame _ s

/-- A command other than INIT is accepted with a start that touches nothing of the host's, or, as RD_TEXT with an illegal
count, is an illegal word (R91, R205). -/
theorem exec_cases {i : Instr} {s t : State} (hi : i ≠ .init) (h : exec i s = .next t) :
    (∃ start : State → State, (∀ u, Untouched u (start u)) ∧ t = accept i start s)
      ∨ t = acceptIllegal (encode i) s := by
  cases i with
  | ckReset => cases h; exact .inl ⟨_, beginStage_untouched _ _ _, rfl⟩
  | ckUpdate b => cases h; exact .inl ⟨_, beginStage_untouched _ _ _, rfl⟩
  | seek => cases h; exact .inl ⟨_, beginStage_untouched _ _ _, rfl⟩
  | rdU16 => cases h; exact .inl ⟨_, beginStage_untouched _ _ _, rfl⟩
  | rdU32 => cases h; exact .inl ⟨_, beginStage_untouched _ _ _, rfl⟩
  | rdText n =>
    change execRdText n s = .next t at h
    unfold execRdText at h
    split at h
    · cases h; exact .inl ⟨_, beginStage_untouched _ _ _, rfl⟩
    · cases h; exact .inr rfl
  | hdrDecode => cases h; exact .inl ⟨_, beginHdr_untouched _, rfl⟩
  | valStruct => cases h; exact .inl ⟨_, beginStruct_untouched _, rfl⟩
  | ptDecode => cases h; exact .inl ⟨_, beginTable_untouched _, rfl⟩
  | valCksum => cases h; exact .inl ⟨_, beginCksum_untouched _, rfl⟩
  | extract => cases h; exact .inl ⟨_, beginExtract_untouched _, rfl⟩
  | run v => cases h; exact .inl ⟨_, beginHdr_untouched _, rfl⟩
  | init => exact absurd rfl hi

theorem exec_commandFrame {i : Instr} {s t : State} (hi : i ≠ .init) (h : exec i s = .next t) : CommandFrame s t := by
  obtain ⟨start, hstart, rfl⟩ | rfl := exec_cases hi h
  · exact accept_commandFrame i hstart s
  · exact acceptIllegal_commandFrame _ s

theorem exec_sameHostInputs {i : Instr} {s t : State} (h : exec i s = .next t) : SameHostInputs s t := by
  by_cases hi : i = .init
  · subst hi
    exact execInit_sameHostInputs h
  · exact (exec_commandFrame hi h).inputs

/-- Settles O55: every command keeps the host's inputs, and one other than INIT has the whole frame. -/
theorem commandsLeaveHostInputsAlone : Obligations.CommandsLeaveHostInputsAlone := by
  intro i s t h
  obtain ⟨hsrc, hlen, hxchunk, hcchunk, hpad, hreads, hinbox, hdraws⟩ := exec_sameHostInputs h
  refine ⟨fun a => by rw [hsrc], hlen, hxchunk, hcchunk, hpad, hreads, hinbox, hdraws, fun hi hpend => ?_⟩
  obtain ⟨harg, hsel, _⟩ := (exec_commandFrame hi h).operands hpend
  exact ⟨harg, hsel⟩

end Sys2Proof.Machine

namespace Sys2Proof.Machine

/-! The invariant of every run, in two halves: what the registers hold (R27, R34, R35, R37, R38, R43, R68, R69), and how
PHASE, the command in flight, the error registers and the handles go together (R24, R39, R41, R236). -/

/-- The half of the invariant that looks at neither PHASE nor the command in flight. -/
structure RegistersOk (s : State) : Prop where
  source : s.src.wf = true ∧ ∀ c ∈ s.src, c.1 < s.len.toNat
  images : s.himg.length = 2124 ∧ s.tbuf.length = 256 ∧ ∀ D ∈ s.pt, D.length = 2580
  count : s.pt.length < 2 ^ 32
  ranges : s.tlen.toNat ≤ 256 ∧ s.prog.toNat ≤ 100
  cause : s.errKind = s.errCause.kind
  milestones : (s.sv = true ∨ s.tv = true ∨ s.cv = true ∨ s.c1 = true ∨ s.xd = true) → s.hv = true
  destinations : (s.dests.map (·.name)).Nodup
  events : ∀ e ∈ s.ev, eventInRange s.xchunk e

/-- The registers while a command works: no error is latched, and an open destination exists. -/
structure Working (s : State) : Prop extends RegistersOk s where
  noError : s.errKind = .none
  opened : s.dopen = true → s.dests ≠ []

/-- The invariant but for its clause on waiting: what a micro-step leaves before the waiting flags are settled. -/
structure Steady (s : State) : Prop extends RegistersOk s where
  inFlight : s.flight.isSome = s.busy ∧ ∀ f, s.flight = some f → stageOk f s
  failed : s.errKind ≠ .none ↔ s.phase = .failed
  handles : (s.dopen = true → s.phase = .extract ∧ s.dests ≠ []) ∧ (s.phase = .failed → s.held = false)

theorem State.Inv.registersOk {s : State} (h : s.Inv) : RegistersOk s := { h with cause := h.error.2 }

theorem State.Inv.working {s : State} (h : s.Inv) (hp : s.phase ≠ .failed) : Working s :=
  { h.registersOk with
    noError := by_contra fun hk => hp (h.error.1.1 hk)
    opened := fun hd => (h.handles.1 hd).2 }

theorem Steady.inv {s : State} (h : Steady s) (ha : s.awaiting = false) (hi : s.initPending = false) : s.Inv :=
  { h with
    error := ⟨h.failed, h.cause⟩
    waiting := ⟨fun hw => by simp [ha] at hw, fun hw => by simp [hi] at hw⟩ }

/-! The continuation of the command in flight -/

/-- A stage's condition speaks of PHASE, HV, SV, TV, DOPEN, PROG, HIMG, PT and XCHUNK only. -/
theorem stageOk_congr {f : Flight} {s t : State} (h : stageOk f s) (hphase : t.phase = s.phase := by rfl)
    (hhv : t.hv = s.hv := by rfl) (hsv : t.sv = s.sv := by rfl) (htv : t.tv = s.tv := by rfl)
    (hdopen : t.dopen = s.dopen := by rfl) (hprog : t.prog = s.prog := by rfl) (hhimg : t.himg = s.himg := by rfl)
    (hpt : t.pt = s.pt := by rfl) (hx : t.xchunk = s.xchunk := by rfl) : stageOk f t := by
  obtain ⟨c, st⟩ := f
  cases st <;> simpa only [stageOk, State.busy, hphase, hhv, hsv, htv, hdopen, hprog, hhimg, hpt, hx] using h

/-- A stage stands in a busy phase, and a destination is open only in EXTRACT (R24, R27, R193). -/
theorem stageOk_phase {f : Flight} {s : State} (h : stageOk f s) :
    s.busy = true ∧ (s.dopen = true → s.phase = .extract) := by
  have closed {p : Phase} (hp : s.phase = p) (hb : p.busy = true) (hd : s.dopen = false) :
      s.busy = true ∧ (s.dopen = true → s.phase = .extract) :=
    ⟨by rw [State.busy, hp, hb], fun ho => by simp [hd] at ho⟩
  have extracting (hp : s.phase = .extract) : s.busy = true ∧ (s.dopen = true → s.phase = .extract) :=
    ⟨by rw [State.busy, hp]; rfl, fun _ => hp⟩
  obtain ⟨c, st⟩ := f
  cases st with
  | ckReset | ckUpdate _ | seek | rdU16 | rdU32 => obtain ⟨hp, _, hd⟩ := h; exact closed hp rfl hd
  | rdText n => obtain ⟨hp, _, _, hd⟩ := h; exact closed hp rfl hd
  | hdr => obtain ⟨hp, _, hd⟩ := h; exact closed hp rfl hd
  | struct => obtain ⟨hp, _, _, hd⟩ := h; exact closed hp rfl hd
  | fold1 p | fold2 p => obtain ⟨hp, _, _, _, hd⟩ := h; exact closed hp rfl hd
  | tabLen i => obtain ⟨hp, _, _, _, _, hd⟩ := h; exact closed hp rfl hd
  | tabBody i W => obtain ⟨hp, _, _, _, _, _, hd⟩ := h; exact closed hp rfl hd
  | part _ | chunkRead _ _ _ _ | chunkWrite _ _ _ _ _ | progress _ _ _ _ => exact extracting h.1
  | raising e => obtain ⟨hb, _, ho, _⟩ := h; exact ⟨hb, ho⟩

theorem phase_ne_failed_of_busy {s : State} (h : s.busy = true) : s.phase ≠ .failed := fun hp => by
  rw [State.busy, hp] at h
  cases h

/-- A working state with a command at a stage that is as its BODY left it. -/
theorem Working.steady {s : State} {f : Flight} (h : Working s) (hf : s.flight = some f) (hok : stageOk f s) :
    Steady s := by
  obtain ⟨hbusy, hopen⟩ := stageOk_phase hok
  have hphase := phase_ne_failed_of_busy hbusy
  exact { h with
    inFlight := ⟨by rw [hf, hbusy]; rfl, fun g hg => by cases hf.symm.trans hg; exact hok⟩
    failed := ⟨fun hk => absurd h.noError hk, fun hp => absurd hp hphase⟩
    handles := ⟨fun hd => ⟨hopen hd, h.opened hd⟩, fun hp => absurd hp hphase⟩ }

theorem Working.goTo {s : State} {c : Instr} {st : Stage} (h : Working s) (hok : stageOk ⟨c, st⟩ s) :
    Steady (goTo c st s) :=
  Working.steady { h with } rfl (stageOk_congr hok)

theorem Working.beginStage {s : State} {ph : Phase} {c : Instr} {st : Stage} (h : Working s)
    (hok : stageOk ⟨c, st⟩ (beginStage ph c st s)) : Steady (beginStage ph c st s) :=
  Working.steady { h with } rfl hok

/-- A `raise` from a stage of the command (R225): a ChecksumError only in VAL_CKSUM or RUN with V = 1 (R176). -/
theorem Working.raise {s : State} {c : Instr} {st : Stage} {e : ErrInfo} (h : Working s) (hok : stageOk ⟨c, st⟩ s)
    (he : e.cause ≠ .none) (hck : e.cause.kind = .checksum → c = .valCksum ∨ c = .run true) :
    Steady (raise c e s) :=
  h.goTo ⟨(stageOk_phase hok).1, he, (stageOk_phase hok).2, hck⟩

theorem Working.complete {s : State} (h : Working s) (hd : s.dopen = false) : Steady (complete s) :=
  { h with
    inFlight := ⟨rfl, nofun⟩
    failed := ⟨fun hk => absurd h.noError hk, nofun⟩
    handles := ⟨fun ho => by simp [hd] at ho, nofun⟩ }

/-! Register updates of the bodies -/

/-- A text decode of at most 256 units fills TBUF to 256 units, and TLEN stays in 0..256 (R34). -/
theorem Working.setText {s : State} {U : List CodeUnit} (h : Working s) (hU : U.length ≤ 256) : Working (setText U s) :=
  { h with
    images := ⟨h.images.1, by simp only [setText_tbuf, List.length_append, length_zeroUnits]; omega, h.images.2.2⟩
    ranges := ⟨by
      have := length_trimUnits_le s.pad U
      simp only [setText_tlen, BitVec.toNat_ofNat]
      exact (Nat.mod_le _ _).trans (by omega), h.ranges.2⟩ }

theorem RegistersOk.emit {s : State} {e : Event} (h : RegistersOk s) (he : eventInRange s.xchunk e) :
    RegistersOk (emit e s) :=
  { h with
    events := fun d hd => by
      obtain hd | hd := List.mem_append.1 hd
      · exact h.events d hd
      · rw [List.mem_singleton.1 hd]; exact he }

theorem Working.emit {s : State} {e : Event} (h : Working s) (he : eventInRange s.xchunk e) : Working (emit e s) :=
  { h.toRegistersOk.emit he with noError := h.noError, opened := h.opened }

theorem RegistersOk.closeIfOpen {s : State} (h : RegistersOk s) : RegistersOk (closeIfOpen s) := by
  unfold Machine.closeIfOpen
  split
  · exact { h.emit (e := .dstClose) trivial with }
  · exact h

theorem RegistersOk.releaseIfHeld {s : State} (h : RegistersOk s) : RegistersOk (releaseIfHeld s) := by
  unfold Machine.releaseIfHeld
  split
  · exact { h.emit (e := .srcRelease) trivial with }
  · exact h

theorem Working.releaseIfHeld {s : State} (h : Working s) : Working (releaseIfHeld s) := by
  unfold Machine.releaseIfHeld
  split
  · exact { h.emit (e := .srcRelease) trivial with }
  · exact h

theorem releaseIfHeld_dopen (s : State) : (releaseIfHeld s).dopen = s.dopen := by
  unfold Machine.releaseIfHeld
  split <;> rfl

/-! The stages begin (R146, R165, R170, R150, R185), and what follows each (R210) -/

theorem Working.beginHdr {s : State} {c : Instr} (h : Working s) (hd : s.dopen = false)
    (hc : c = .hdrDecode ∨ ∃ v, c = .run v) : Steady (beginHdr c s) :=
  Working.beginStage { h with milestones := by simp } ⟨rfl, hc, hd⟩

theorem Working.beginStruct {s : State} {c : Instr} (h : Working s) (hhv : s.hv = true) (hd : s.dopen = false)
    (hc : c = .valStruct ∨ ∃ v, c = .run v) : Steady (beginStruct c s) :=
  Working.beginStage { h with milestones := fun _ => hhv } ⟨rfl, hhv, hc, hd⟩

theorem Working.beginRegion2 {s : State} {c : Instr} (h : Working s) (hsv : s.sv = true) (hd : s.dopen = false)
    (hc : c = .valCksum ∨ c = .run true) : Steady (beginRegion2 c s) :=
  Working.beginStage { h with } ⟨rfl, hsv, Nat.le_refl _, hc, hd⟩

theorem Working.beginCksum {s : State} {c : Instr} (h : Working s) (hsv : s.sv = true) (hd : s.dopen = false)
    (hc : c = .valCksum ∨ c = .run true) : Steady (beginCksum c s) := by
  have hhv : s.hv = true := h.milestones (.inl hsv)
  unfold Machine.beginCksum
  split
  · exact Working.beginStage { h with milestones := fun _ => hhv } ⟨rfl, hsv, Nat.zero_le _, hc, hd⟩
  · exact Working.beginRegion2 { h with milestones := fun _ => hhv } hsv hd hc

theorem Working.beginTable {s : State} {c : Instr} (h : Working s) (hsv : s.sv = true) (hd : s.dopen = false)
    (hc : c = .ptDecode ∨ ∃ v, c = .run v) : Steady (beginTable c s) :=
  Working.beginStage
    { h with
      images := ⟨h.images.1, h.images.2.1, nofun⟩
      count := Nat.two_pow_pos 32
      milestones := fun _ => h.milestones (.inl hsv) }
    ⟨rfl, hsv, rfl, Nat.zero_le _, hc, hd⟩

theorem Working.beginExtract {s : State} {c : Instr} (h : Working s) (htv : s.tv = true) (hd : s.dopen = false)
    (hc : c = .extract ∨ ∃ v, c = .run v) : Steady (beginExtract c s) :=
  Working.beginStage { h with milestones := fun _ => h.milestones (.inr (.inl htv)) }
    ⟨rfl, htv, Nat.zero_le _, hc, hd⟩

theorem Working.afterHdr {s : State} {c : Instr} (h : Working s) (hhv : s.hv = true) (hd : s.dopen = false) :
    Steady (afterHdr c s) := by
  unfold Machine.afterHdr
  split
  · exact h.beginStruct hhv hd (.inr ⟨_, rfl⟩)
  · exact h.complete hd

theorem Working.afterStruct {s : State} {c : Instr} (h : Working s) (hsv : s.sv = true) (hd : s.dopen = false) :
    Steady (afterStruct c s) := by
  unfold Machine.afterStruct
  split
  · exact h.beginCksum hsv hd (.inr rfl)
  · exact h.beginTable hsv hd (.inr ⟨_, rfl⟩)
  · exact h.complete hd

theorem Working.afterCksum {s : State} {c : Instr} (h : Working s) (hsv : s.sv = true) (hd : s.dopen = false) :
    Steady (afterCksum c s) := by
  unfold Machine.afterCksum
  split
  · exact h.beginTable hsv hd (.inr ⟨_, rfl⟩)
  · exact h.complete hd

theorem Working.afterTable {s : State} {c : Instr} (h : Working s) (htv : s.tv = true) (hd : s.dopen = false) :
    Steady (afterTable c s) := by
  unfold Machine.afterTable
  split
  · exact h.beginExtract htv hd (.inr ⟨_, rfl⟩)
  · exact h.complete hd

/-! The micro-steps of each stage -/

section MicroSteps

variable {s : State} {c : Instr}

theorem Working.tickRdU16 (h : Working s) (hok : stageOk ⟨c, .rdU16⟩ s) : Steady (tickRdU16 c s) := by
  obtain ⟨_, _, hd⟩ := id hok
  unfold Machine.tickRdU16
  obtain ⟨_, hm⟩ | ⟨_, hm⟩ := memRead_cases 0#32 s.cur.toNat 2 s <;> simp only [hm]
  · exact h.raise hok nofun nofun
  · exact Working.complete { h with } hd

theorem Working.tickRdU32 (h : Working s) (hok : stageOk ⟨c, .rdU32⟩ s) : Steady (tickRdU32 c s) := by
  obtain ⟨_, _, hd⟩ := id hok
  unfold Machine.tickRdU32
  obtain ⟨_, hm⟩ | ⟨_, hm⟩ := memRead_cases 0#32 s.cur.toNat 4 s <;> simp only [hm]
  · exact h.raise hok nofun nofun
  · exact Working.complete { h with } hd

theorem Working.tickRdText {n : BitVec 9} (h : Working s) (hok : stageOk ⟨c, .rdText n⟩ s) :
    Steady (tickRdText c n.toNat s) := by
  obtain ⟨_, _, hn, hd⟩ := id hok
  simp only [textLengthLegal, Bool.and_eq_true, decide_eq_true_eq] at hn
  unfold Machine.tickRdText
  obtain ⟨_, hm⟩ | ⟨_, hm⟩ := memRead_cases 0#32 s.cur.toNat (2 * n.toNat) s <;> simp only [hm]
  · exact h.raise hok nofun nofun
  · have hheld : Working { s with held := true } := { h with }
    have htext := hheld.setText (U := unitsOf (s.src.read s.cur.toNat (2 * n.toNat)) 0 n.toNat)
      (by rw [length_unitsOf]; exact hn.2)
    exact Working.complete { htext with } hd

theorem Working.tickHdr (h : Working s) (hok : stageOk ⟨c, .hdr⟩ s) : Steady (tickHdr c s) := by
  obtain ⟨_, _, hd⟩ := id hok
  unfold Machine.tickHdr
  split
  · exact h.raise hok nofun nofun
  · obtain ⟨_, hm⟩ | ⟨_, hm⟩ := memRead_cases 0#32 0 Config.hdrSize s <;> simp only [hm]
    · exact h.raise hok nofun nofun
    · have hB : (s.src.read 0 Config.hdrSize).length = 2124 := Memory.length_read _ _ _
      generalize s.src.read 0 Config.hdrSize = B at hB
      exact Working.afterHdr { h with images := ⟨hB, h.images.2⟩, milestones := fun _ => rfl } rfl hd

theorem Working.tickStruct (h : Working s) (hok : stageOk ⟨c, .struct⟩ s) : Steady (tickStruct c s) := by
  obtain ⟨_, hhv, _, hd⟩ := id hok
  have htext : Working (Machine.setText (hdrVersionUnits s.himg) s) := h.setText (by simp [hdrVersionUnits])
  simp only [Machine.tickStruct]
  split
  · exact h.raise hok nofun nofun
  · split
    · exact htext.raise (st := .struct) hok nofun nofun
    · exact Working.afterStruct { htext with milestones := fun _ => hhv } rfl hd

/-- One piece of a region leaves the fold at a later offset, still inside the region (R170). -/
theorem Working.foldPiece {next : Nat → Stage} {p b : Nat} (h : Working s) (hok : stageOk ⟨c, next p⟩ s) (hp : p ≤ b)
    (hnext : ∀ q, p ≤ q → q ≤ b → stageOk ⟨c, next q⟩ s) : Steady (foldPiece c next p b s) := by
  unfold Machine.foldPiece
  obtain ⟨_, hm⟩ | ⟨_, hm⟩ := memRead_cases 0#32 p (min (s.cchunk : Nat) (b - p)) s <;> simp only [hm]
  · exact h.raise hok nofun nofun
  · refine Working.goTo { h with } (stageOk_congr (hnext _ ?_ ?_)) <;> omega

theorem Working.tickFold1 {p : Nat} (h : Working s) (hok : stageOk ⟨c, .fold1 p⟩ s) : Steady (tickFold1 c p s) := by
  obtain ⟨hph, hsv, hp, hc, hd⟩ := id hok
  unfold Machine.tickFold1
  split
  · exact h.foldPiece (next := .fold1) hok hp fun q _ hq => ⟨hph, hsv, hq, hc, hd⟩
  · split
    · exact h.raise hok nofun fun _ => hc
    · exact Working.beginRegion2 { h with milestones := fun _ => h.milestones (.inl hsv) } hsv hd hc

theorem Working.tickFold2 {p : Nat} (h : Working s) (hok : stageOk ⟨c, .fold2 p⟩ s) : Steady (tickFold2 c p s) := by
  obtain ⟨hph, hsv, hp, hc, hd⟩ := id hok
  unfold Machine.tickFold2
  split
  next hlt =>
    exact h.foldPiece (next := .fold2) hok (Nat.le_of_lt hlt) fun q hq _ => ⟨hph, hsv, hp.trans hq, hc, hd⟩
  next =>
    split
    · exact h.raise hok nofun fun _ => hc
    · exact Working.afterCksum { h with milestones := fun _ => h.milestones (.inl hsv) } hsv hd

theorem Working.tickTabLen {i : Nat} (h : Working s) (hok : stageOk ⟨c, .tabLen i⟩ s) : Steady (tickTabLen c i s) := by
  obtain ⟨hph, hsv, hlen, _, hc, hd⟩ := id hok
  unfold Machine.tickTabLen
  split
  next hlt =>
    obtain ⟨_, hm⟩ | ⟨_, hm⟩ := memRead_cases (indexWord i) (recordAddr s i) 4 s <;> simp only [hm]
    · exact h.raise hok nofun nofun
    · split
      · exact Working.raise (st := .tabLen i) { h with } hok nofun nofun
      · exact Working.goTo { h with } ⟨hph, hsv, hlen, hlt, Memory.length_read _ _ _, hc, hd⟩
  next => exact Working.afterTable { h with milestones := fun _ => h.milestones (.inl hsv) } rfl hd

/-- A record read whole is appended, and PT stays within the header's count (R150, R155, R43). -/
theorem Working.tickTabBody {i : Nat} {W : List Byte} (h : Working s) (hok : stageOk ⟨c, .tabBody i W⟩ s) :
    Steady (tickTabBody c i W s) := by
  obtain ⟨hph, hsv, hlen, hlt, hW, hc, hd⟩ := id hok
  unfold Machine.tickTabBody
  obtain ⟨_, hm⟩ | ⟨_, hm⟩ := memRead_cases (indexWord i) (recordAddr s i + 4) 2576 s <;> simp only [hm]
  · exact h.raise hok nofun nofun
  · generalize hR : s.src.read (recordAddr s i + 4) 2576 = R
    have hrec : (W ++ R).length = 2580 := by rw [List.length_append, hW, ← hR, Memory.length_read]
    have hpt : (s.pt ++ [W ++ R]).length = i + 1 := by rw [List.length_append, hlen]; rfl
    have hcount := (hdrPartitionCount s.himg).isLt
    refine Working.goTo
      { h with
        images := ⟨h.images.1, h.images.2.1, fun D hD => ?_⟩
        count := ?_ }
      ⟨hph, hsv, hpt, hlt, hc, hd⟩
    · obtain hD | hD := List.mem_append.1 hD
      · exact h.images.2.2 D hD
      · rw [List.mem_singleton.1 hD, hrec]
    · exact hpt.trans_lt (by omega)

end MicroSteps

section Extraction

variable {s : State} {c : Instr}

/-- One destination per name, and the one opened stands first (R69). -/
theorem openDest_nodup (name : List CodeUnit) {ds : List Dest} (h : (ds.map (·.name)).Nodup) :
    ((openDest name ds).map (·.name)).Nodup := by
  simp only [openDest, List.map_cons, List.nodup_cons]
  refine ⟨fun hmem => ?_, h.sublist ((List.filter_sublist).map _)⟩
  obtain ⟨d, hd, hname⟩ := List.mem_map.1 hmem
  simp [hname] at hd

theorem appendDest_names (B : List Byte) (ds : List Dest) : (appendDest B ds).map (·.name) = ds.map (·.name) := by
  cases ds <;> rfl

theorem appendDest_ne_nil (B : List Byte) {ds : List Dest} (h : ds ≠ []) : appendDest B ds ≠ [] := by
  cases ds with
  | nil => exact h
  | cons d ds => exact List.cons_ne_nil _ _

theorem abandonDest_names (o : Bool) (B : List Byte) (ds : List Dest) :
    (abandonDest o B ds).map (·.name) = ds.map (·.name) := by
  cases ds <;> cases o <;> rfl

theorem progressPct_le (rem size : Nat) : progressPct rem size ≤ 100 := Nat.sub_le _ _

/-- Once a byte has moved, the percentage reported is not 0 (R189). -/
theorem progressPct_pos {rem size : Nat} (h : rem < size) : 1 ≤ progressPct rem size := by
  have : 100 * rem / size < 100 := (Nat.div_lt_iff_lt_mul (by omega)).2 (by omega)
  unfold progressPct
  omega

theorem toNat_progressPct (rem size : Nat) : (BitVec.ofNat 7 (progressPct rem size)).toNat = progressPct rem size := by
  have := progressPct_le rem size
  rw [BitVec.toNat_ofNat, Nat.mod_eq_of_lt (by omega)]

theorem Working.tickPart {i : Nat} {t : State} (h : Working s) (hok : stageOk ⟨c, .part i⟩ s)
    (ht : tickPart c i s = some t) : Steady t := by
  obtain ⟨hph, htv, _, hc, hd⟩ := id hok
  simp only [Machine.tickPart] at ht
  split at ht
  next hlt =>
    generalize s.pt.getD i [] = D at ht
    split at ht
    next =>
      cases ht
      exact h.goTo ⟨hph, htv, hlt, hc, hd⟩
    next hsize =>
      have hU : (pdFileNameUnits D).length = 256 := length_unitsOf _ _ _
      have htext : Working (Machine.setText (pdFileNameUnits D) s) := h.setText hU.le
      have hname := (length_trimUnits_le s.pad (pdFileNameUnits D)).trans hU.le
      generalize htrim : trimUnits s.pad (pdFileNameUnits D) = name at ht hname
      split at ht
      next => cases ht
      next a rest _ =>
        have hopen : Working (Machine.emit (.dstOpen name)
            (setCursor (pdPartitionAddr D).toNat
              { Machine.setText (pdFileNameUnits D) s with
                pidx := indexWord i, prog := 0#7, openAnswers := rest })) :=
          Working.emit { htext with ranges := ⟨htext.ranges.1, Nat.zero_le _⟩ } hname
        cases a <;> cases ht
        · exact Working.goTo
            { hopen with
              destinations := openDest_nodup name h.destinations
              opened := fun _ => List.cons_ne_nil _ _ }
            ⟨hph, htv, hlt, Nat.le_refl _, Nat.pos_of_ne_zero hsize, (pdPartitionSize D).isLt, hc, rfl⟩
        · exact hopen.raise (st := .part i) hok nofun nofun
        · exact hopen.raise (st := .part i) hok nofun nofun
  next =>
    cases ht
    have hxd : Working { s with xd := true } :=
      { h with milestones := fun _ => h.milestones (.inr (.inl htv)) }
    exact hxd.releaseIfHeld.complete ((releaseIfHeld_dopen _).trans hd)

theorem Working.tickChunkRead {i p rem size : Nat} (h : Working s) (hok : stageOk ⟨c, .chunkRead i p rem size⟩ s) :
    Steady (tickChunkRead c i p rem size s) := by
  obtain ⟨hph, htv, hi, hrem, hsize, hlt, hc, hd⟩ := id hok
  unfold Machine.tickChunkRead
  split
  next => exact Working.goTo { h.emit (e := .dstClose) trivial with opened := nofun } ⟨hph, htv, hi, hc, rfl⟩
  next hpos =>
    obtain ⟨_, hm⟩ | ⟨_, hm⟩ := memRead_cases (indexWord i) p (min (s.xchunk : Nat) rem) s <;> simp only [hm]
    · exact h.raise hok nofun nofun
    · have hlen := Memory.length_read s.src p (min (s.xchunk : Nat) rem)
      have hx := s.xchunk.pos
      exact Working.goTo { h with }
        ⟨hph, htv, hi, hrem, hsize, hlt, by omega, by omega, by simp only [hlen]; omega, hc, hd⟩

theorem Working.tickChunkWrite {i p rem size : Nat} {B : List Byte} {t : State} (h : Working s)
    (hok : stageOk ⟨c, .chunkWrite i p rem size B⟩ s) (ht : tickChunkWrite c i p rem size B s = some t) :
    Steady t := by
  obtain ⟨hph, htv, hi, hrem, hsize, hlt, hB, hBrem, hBx, hc, hd⟩ := id hok
  simp only [Machine.tickChunkWrite] at ht
  split at ht
  next => cases ht
  next a rest _ =>
    have hwrite : Working (Machine.emit (.dstWrite B) { s with writeAnswers := rest }) :=
      Working.emit { h with } ⟨hB, hBx⟩
    cases a <;> cases ht
    · have hpct := toNat_progressPct (rem - B.length) size
      exact Working.goTo
        { hwrite with
          ranges := ⟨h.ranges.1, hpct.trans_le (progressPct_le _ _)⟩
          destinations := (appendDest_names B s.dests).symm ▸ h.destinations
          opened := fun _ => appendDest_ne_nil B (h.opened hd) }
        ⟨hph, htv, hi, by omega, hlt, hpct, hc, hd⟩
    · exact hwrite.raise (st := .chunkWrite i p rem size B) hok nofun nofun

theorem Working.tickProgress {i p rem size : Nat} (h : Working s) (hok : stageOk ⟨c, .progress i p rem size⟩ s) :
    Steady (tickProgress c i p rem size s) := by
  obtain ⟨hph, htv, hi, hrem, hlt, hprog, hc, hd⟩ := id hok
  have hpos : 1 ≤ s.prog.toNat := (progressPct_pos hrem).trans_eq hprog.symm
  exact (h.emit (e := .progress (indexWord i) s.prog) ⟨hpos, h.ranges.2⟩).goTo
    ⟨hph, htv, hi, hrem.le, by omega, hlt, hc, hd⟩

end Extraction

/-! The error entry -/

theorem kind_ne_none {e : Cause} (h : e ≠ .none) : e.kind ≠ .none := by
  cases e with
  | none => exact absurd rfl h
  | _ => exact ErrKind.noConfusion

theorem RegistersOk.latchError {s : State} {e : ErrInfo} (h : RegistersOk s) (he : e.cause ≠ .none)
    (hd : s.dopen = false) (hh : s.held = false) : Steady (latchError e s) :=
  { h with
    cause := rfl
    inFlight := ⟨rfl, nofun⟩
    failed := ⟨fun _ => rfl, fun _ => kind_ne_none he⟩
    handles := ⟨fun ho => by simp [hd] at ho, fun _ => hh⟩ }

/-- The error entry at acceptance (R205, R236). -/
theorem RegistersOk.failedWith {s : State} {e : ErrInfo} (h : RegistersOk s) (he : e.cause ≠ .none) :
    Steady (failedWith e s) := by
  rw [← takeError_eq]
  have hlet := release_close_eq s
  exact h.closeIfOpen.releaseIfHeld.latchError he (by rw [hlet]) (by rw [hlet])

theorem Working.errorStep {s : State} {c : Instr} {e : ErrInfo} (h : Working s) (hf : s.flight = some ⟨c, .raising e⟩)
    (hok : stageOk ⟨c, .raising e⟩ s) : Steady (errorStep e s) := by
  obtain ⟨hb, he, _, hck⟩ := id hok
  unfold Machine.errorStep
  split
  next hd =>
    rw [Machine.closeIfOpen, if_pos hd]
    exact Working.steady { h.emit (e := .dstClose) trivial with opened := nofun } hf ⟨hb, he, nofun, hck⟩
  next hd =>
    split
    next hh =>
      rw [Machine.releaseIfHeld, if_pos hh]
      exact Working.steady { h.emit (e := .srcRelease) trivial with } hf hok
    next hh => exact h.toRegistersOk.latchError he (Bool.eq_false_iff.2 hd) (Bool.eq_false_iff.2 hh)

/-- Every micro-step of a command keeps the invariant, but for the waiting flags, which `afterTick` settles. -/
theorem stageTick_steady {f : Flight} {s t : State} (h : Working s) (hf : s.flight = some f) (hok : stageOk f s)
    (ht : stageTick f s = some t) : Steady t := by
  obtain ⟨c, st⟩ := f
  cases st with
  | ckReset => cases ht; exact Working.complete { h with } hok.2.2
  | ckUpdate b => cases ht; exact Working.complete { h with } hok.2.2
  | seek => cases ht; exact Working.complete { h with } hok.2.2
  | rdU16 => cases ht; exact h.tickRdU16 hok
  | rdU32 => cases ht; exact h.tickRdU32 hok
  | rdText n => cases ht; exact h.tickRdText hok
  | hdr => cases ht; exact h.tickHdr hok
  | struct => cases ht; exact h.tickStruct hok
  | fold1 p => cases ht; exact h.tickFold1 hok
  | fold2 p => cases ht; exact h.tickFold2 hok
  | tabLen i => cases ht; exact h.tickTabLen hok
  | tabBody i W => cases ht; exact h.tickTabBody hok
  | part i => exact h.tickPart hok ht
  | chunkRead i p rem size => cases ht; exact h.tickChunkRead hok
  | chunkWrite i p rem size B => exact h.tickChunkWrite hok ht
  | progress i p rem size => cases ht; exact h.tickProgress hok
  | raising e => cases ht; exact h.errorStep hf hok

/-- Only a stage that performs a DstOpen or a DstWrite can find no answer (U15). -/
theorem answeredStage_of_stageTick_none {f : Flight} {s : State} (h : stageTick f s = none) :
    answeredStage f.stage = true := by
  obtain ⟨c, st⟩ := f
  cases st with
  | part _ | chunkWrite _ _ _ _ _ => rfl
  | _ => cases h

/-! INIT and hardware reset (R216, R250) -/

/-- With every register at its reset value, the invariant asks only for the host's source, the destinations and EV. -/
theorem ResetValues.inv {s : State} (h : ResetValues s) (hsrc : s.src.wf = true ∧ ∀ c ∈ s.src, c.1 < s.len.toNat)
    (hdests : (s.dests.map (·.name)).Nodup) (hev : ∀ e ∈ s.ev, eventInRange s.xchunk e) : s.Inv := by
  obtain ⟨hphase, ⟨hhv, hsv, htv, hcv, hc1, hxd⟩, ⟨_, hheld, hdopen⟩, ⟨hkind, hcause, _⟩, _, _, ⟨htbuf, htlen⟩,
    ⟨_, hprog, _⟩, hhimg, hpt, hflight, hawait, hinit⟩ := h
  exact
    { source := hsrc
      images := ⟨by rw [hhimg]; exact length_zeroBytes 2124, by rw [htbuf]; exact length_zeroUnits 256, by simp [hpt]⟩
      count := by simp [hpt]
      ranges := by simp [htlen, hprog]
      inFlight := by simp [hflight, State.busy, hphase, Phase.busy]
      waiting := by simp [hawait, hinit]
      error := by simp [hkind, hcause, hphase, Cause.kind]
      handles := by simp [hdopen, hheld]
      milestones := by simp [hsv, htv, hcv, hc1, hxd]
      destinations := hdests
      events := hev }

theorem reset_values : ResetValues State.reset := resetRegisters_values State.reset

theorem performInit_values (s : State) : ResetValues (performInit s) := resetRegisters_values _

theorem hardwareReset_values (s : State) : ResetValues (hardwareReset s) := { resetRegisters_values s with }

theorem RegistersOk.performInit {s : State} (h : RegistersOk s) : (performInit s).Inv :=
  have hlet := h.closeIfOpen.releaseIfHeld
  (performInit_values s).inv hlet.source hlet.destinations hlet.events

theorem RegistersOk.hardwareReset {s : State} (h : RegistersOk s) : (hardwareReset s).Inv :=
  (hardwareReset_values s).inv h.source ((abandonDest_names _ _ _).symm ▸ h.destinations) nofun

/-- Settles O13: the reset values, and a host that has presented and done nothing. -/
theorem resetHasTheInvariant : Obligations.ResetHasTheInvariant :=
  reset_values.inv ⟨rfl, nofun⟩ List.nodup_nil nofun

/-! The engine keeps the invariant -/

theorem Steady.settleWaiting {s : State} (h : Steady s) (hi : s.initPending = false) :
    State.Inv { s with awaiting := false } :=
  Steady.inv
    { h with
      inFlight := ⟨h.inFlight.1, fun f hf => stageOk_congr (h.inFlight.2 f hf)⟩ }
    rfl hi

/-- One micro-step, with the pending INIT that may follow it (R70, R216, U15). -/
theorem engineTick_inv {s t : State} (h : s.Inv) (ht : engineTick s = some t) : t.Inv := by
  obtain ⟨f, hf, ⟨u, hu, hframe, hend⟩ | ⟨hnone, _, rfl⟩⟩ := engineTick_cases ht
  · have hok := h.inFlight.2 f hf
    have hphase := phase_ne_failed_of_busy (stageOk_phase hok).1
    have hsteady : Steady u := stageTick_steady (h.working hphase) hf hok hu
    obtain ⟨hi, rfl⟩ | ⟨_, rfl⟩ := hend
    · exact hsteady.settleWaiting (hframe.initPending.trans hi)
    · exact RegistersOk.performInit { hsteady with }
  · exact
      { h with
        inFlight := ⟨h.inFlight.1, fun g hg => stageOk_congr (h.inFlight.2 g hg)⟩
        waiting := ⟨fun _ => ⟨f, hf, answeredStage_of_stageTick_none hnone⟩, fun _ => rfl⟩ }

/-- The engine's step is a micro-step, or nothing changes, or a busy PHASE has no command in flight. -/
theorem engineStep_cases (s : State) :
    (∃ t, engineTick s = some t ∧ engineStep s = .next t)
    ∨ engineStep s = .next s
    ∨ (s.busy = true ∧ s.flight = none ∧ engineStep s = .fault .lostCommand) := by
  unfold engineStep
  cases engineTick s with
  | some t => exact .inl ⟨t, rfl, rfl⟩
  | none =>
    dsimp only
    split
    next hlost =>
      simp only [Bool.and_eq_true, Option.isNone_iff_eq_none] at hlost
      exact .inr (.inr ⟨hlost.1, hlost.2, rfl⟩)
    next => exact .inr (.inl rfl)

theorem engineStep_inv {s t : State} (h : s.Inv) (ht : engineStep s = .next t) : t.Inv := by
  obtain ⟨u, hu, he⟩ | he | ⟨_, _, he⟩ := engineStep_cases s <;> cases he.symm.trans ht
  · exact engineTick_inv h hu
  · exact h

theorem settle_inv {s : State} (h : s.Inv) : (settle s).Inv := by
  unfold settle
  split
  · exact drain_induct (fun _ _ => engineTick_inv) _ h
  · exact h

/-! What the host writes, presents, answers and reads -/

/-- The host's own fields matter to the invariant only through the source it presents (R252). -/
theorem State.Inv.withHost {s : State} {src : Memory} {len : Word64} {openAnswers : List OpenAnswer}
    {writeAnswers : List WriteAnswer} {inbox : List HostAct} {reads : List Word32} {draws : Nat} {arg : Word64}
    {ptSel : Word32} {ovr : Bool} (h : s.Inv) (hsrc : src.wf = true ∧ ∀ c ∈ src, c.1 < len.toNat) :
    State.Inv { s with
      src := src, len := len, openAnswers := openAnswers, writeAnswers := writeAnswers, inbox := inbox, reads := reads
      draws := draws, arg := arg, ptSel := ptSel, ovr := ovr } :=
  { h with
    source := hsrc
    inFlight := ⟨h.inFlight.1, fun f hf => stageOk_congr (h.inFlight.2 f hf)⟩ }

theorem writeRegister_inv {off : Nat} {v : Word32} {s : State} (h : s.Inv) : (writeRegister off v s).Inv := by
  unfold writeRegister refuseBusy
  split_ifs
  · exact h.withHost h.source
  · exact h.withHost h.source
  · exact h.withHost h.source
  · exact h.withHost h.source
  · exact h

theorem readRegister_inv {off : Nat} {s : State} (h : s.Inv) : (readRegister off s).Inv := by
  unfold readRegister
  split
  · exact h.withHost h.source
  · split_ifs <;> exact h.withHost h.source

theorem hostStep_inv {act : HostAct} {rest : List HostAct} {s t : State} (h : s.Inv)
    (ht : hostStep act rest s = .next t) : t.Inv := by
  have hrest : State.Inv { s with inbox := rest } := h.withHost h.source
  cases act with
  | write off v =>
    simp only [hostStep] at ht
    split at ht <;> cases ht
    exact writeRegister_inv hrest
  | read off =>
    simp only [hostStep] at ht
    split at ht <;> cases ht
    exact readRegister_inv hrest
  | narrow off => cases ht
  | tick => exact engineStep_inv hrest ht
  | wait =>
    simp only [hostStep] at ht
    split at ht
    · exact engineStep_inv h ht
    · cases ht; exact hrest
  | present cells len =>
    simp only [hostStep] at ht
    split at ht <;> cases ht
    exact h.withHost (Memory.ofCells_wf cells len.toNat)
  | answerOpen a => cases ht; exact h.withHost h.source
  | answerWrite a => cases ht; exact h.withHost h.source
  | reset => cases ht; exact hrest.registersOk.hardwareReset

/-! Commands -/

/-- What the invariant says in IDLE: no error, no command, no handle of EXTRACT. -/
theorem State.Inv.idle {s : State} (h : s.Inv) (hp : s.phase = .idle) :
    Working s ∧ s.dopen = false ∧ s.awaiting = false ∧ s.initPending = false := by
  have hflight : s.flight = none := by simpa [State.busy, hp, Phase.busy] using h.inFlight.1
  have hawait : s.awaiting = false := Bool.eq_false_iff.2 fun ha => by
    obtain ⟨f, hf, _⟩ := h.waiting.1 ha
    cases hflight.symm.trans hf
  refine ⟨h.working (by rw [hp]; exact Phase.noConfusion), Bool.eq_false_iff.2 fun hd => ?_, hawait,
    Bool.eq_false_iff.2 fun hi => ?_⟩
  · cases hp.symm.trans (h.handles.1 hd).1
  · cases hawait.symm.trans (h.waiting.2 hi)

theorem refuseBusy_inv {s : State} (h : s.Inv) : (refuseBusy s).Inv := h.withHost h.source

theorem failedWith_inv {e : ErrInfo} {s : State} (h : s.Inv) (hp : s.phase = .idle) (he : e.cause ≠ .none) :
    (failedWith e s).Inv := by
  obtain ⟨_, _, hawait, hinit⟩ := h.idle hp
  exact (h.registersOk.failedWith he).inv hawait hinit

/-- Acceptance keeps the invariant when the start of the command, with its milestone set, does (R205). -/
theorem accept_inv {c : Instr} {start : State → State} {s : State} (h : s.Inv)
    (hstart : Working s → s.dopen = false → missing (precondition c) s = none → Steady (start s))
    (hframe : Untouched s (start s)) : (accept c start s).Inv := by
  obtain ⟨_, ht⟩ | ⟨_, ht⟩ | ⟨m, hp, _, ht⟩ | ⟨hp, hm, ht⟩ := accept_cases c start s <;> rw [ht]
  · exact h
  · exact refuseBusy_inv h
  · exact failedWith_inv h hp nofun
  · obtain ⟨hw, hd, hawait, hinit⟩ := h.idle hp
    exact settle_inv ((hstart hw hd hm).inv (hframe.awaiting.trans hawait) (hframe.initPending.trans hinit))

theorem acceptIllegal_inv {w : Word32} {s : State} (h : s.Inv) : (acceptIllegal w s).Inv := by
  obtain ⟨_, ht⟩ | ⟨_, ht⟩ | ⟨hp, ht⟩ := acceptIllegal_cases w s <;> rw [ht]
  · exact h
  · exact refuseBusy_inv h
  · exact failedWith_inv h hp nofun

/-- A command that lacks no milestone has the one it needs (R206). -/
theorem isSet_of_missing_none {m : Milestone} {s : State} (h : missing (some m) s = none) : m.isSet s = true := by
  simpa [missing] using h

/-- A primitive starts in PRIM with no destination open (R23, R110). -/
theorem accept_prim_inv {c : Instr} {st : Stage} {s : State} (h : s.Inv)
    (hok : s.dopen = false → stageOk ⟨c, st⟩ (beginStage .prim c st s)) :
    (accept c (beginStage .prim c st) s).Inv :=
  accept_inv h (fun hw hd _ => hw.beginStage (hok hd)) (beginStage_untouched _ _ _ _)

theorem exec_inv {i : Instr} {s t : State} (h : s.Inv) (ht : exec i s = .next t) : t.Inv := by
  cases i with
  | ckReset => cases ht; exact accept_prim_inv h fun hd => ⟨rfl, rfl, hd⟩
  | ckUpdate b => cases ht; exact accept_prim_inv h fun hd => ⟨rfl, rfl, hd⟩
  | seek => cases ht; exact accept_prim_inv h fun hd => ⟨rfl, rfl, hd⟩
  | rdU16 => cases ht; exact accept_prim_inv h fun hd => ⟨rfl, rfl, hd⟩
  | rdU32 => cases ht; exact accept_prim_inv h fun hd => ⟨rfl, rfl, hd⟩
  | rdText n =>
    change execRdText n s = .next t at ht
    unfold execRdText at ht
    split at ht <;> cases ht
    next hn => exact accept_prim_inv h fun hd => ⟨rfl, rfl, hn, hd⟩
    next => exact acceptIllegal_inv h
  | hdrDecode =>
    cases ht
    exact accept_inv h (fun hw hd _ => hw.beginHdr hd (.inl rfl)) (beginHdr_untouched _ _)
  | valStruct =>
    cases ht
    exact accept_inv h (fun hw hd hm => hw.beginStruct (isSet_of_missing_none hm) hd (.inl rfl))
      (beginStruct_untouched _ _)
  | ptDecode =>
    cases ht
    exact accept_inv h (fun hw hd hm => hw.beginTable (isSet_of_missing_none hm) hd (.inl rfl))
      (beginTable_untouched _ _)
  | valCksum =>
    cases ht
    exact accept_inv h (fun hw hd hm => hw.beginCksum (isSet_of_missing_none hm) hd (.inl rfl))
      (beginCksum_untouched _ _)
  | extract =>
    cases ht
    exact accept_inv h (fun hw hd hm => hw.beginExtract (isSet_of_missing_none hm) hd (.inl rfl))
      (beginExtract_untouched _ _)
  | run v =>
    cases ht
    exact accept_inv h (fun hw hd _ => hw.beginHdr hd (.inr ⟨v, rfl⟩)) (beginHdr_untouched _ _)
  | init =>
    change execInit s = .next t at ht
    unfold execInit at ht
    split at ht <;> cases ht
    next ha =>
      exact
        { h with
          inFlight := ⟨h.inFlight.1, fun f hf => stageOk_congr (h.inFlight.2 f hf)⟩
          waiting := ⟨h.waiting.1, fun _ => ha⟩ }
    next => exact h.registersOk.performInit

/-! One step: the host's act, the word it writes to CMD, or the engine alone (R205, R70) -/

theorem step_quiet {s : State} (h : s.inbox = []) : step s = engineStep s := by simp only [step, h]

theorem step_act {s : State} {act : HostAct} {rest : List HostAct} (h : s.inbox = act :: rest)
    (hc : commandWord? act = none) : step s = hostStep act rest s := by simp only [step, h, hc]

theorem step_command {s : State} {act : HostAct} {rest : List HostAct} {w : Word32} (h : s.inbox = act :: rest)
    (hc : commandWord? act = some w) :
    (∃ i, decode w = .ok i ∧ step s = exec i { s with inbox := rest })
    ∨ ((∃ e, decode w = .error e) ∧ step s = .next (acceptIllegal w { s with inbox := rest })) := by
  cases hw : decode w with
  | ok i => exact .inl ⟨i, rfl, by simp only [step, h, hc, hw]⟩
  | error e => exact .inr ⟨⟨e, rfl⟩, by simp only [step, h, hc, hw]⟩

/-- Settles O53: whatever the host does next, by the act; a command by its start and its micro-steps. -/
theorem stepKeepsTheInvariant : Obligations.StepKeepsTheInvariant := by
  intro s t h ht
  cases hin : s.inbox with
  | nil => exact engineStep_inv h (step_quiet hin ▸ ht)
  | cons act rest =>
    have hrest : State.Inv { s with inbox := rest } := h.withHost h.source
    cases hc : commandWord? act with
    | none => exact hostStep_inv h (step_act hin hc ▸ ht)
    | some w =>
      obtain ⟨i, _, hs⟩ | ⟨_, hs⟩ := step_command hin hc
      · exact exec_inv hrest (hs ▸ ht)
      · cases hs.symm.trans ht
        exact acceptIllegal_inv hrest

/-! Reset and INIT (R48) -/

theorem execInit_of_not_awaiting {s : State} (h : s.awaiting = false) : exec .init s = .next (performInit s) := by
  simp only [exec, execInit, h, Bool.false_eq_true, if_false]

/-- Settles O14: hardware reset and INIT end in `resetRegisters`, which leaves L as it is. -/
theorem resetAndInitLeaveTheResetValues : Obligations.ResetAndInitLeaveTheResetValues := by
  refine ⟨reset_values, fun s rest hin => ?_, fun s ha => ?_⟩
  · exact ⟨_, step_act hin rfl, hardwareReset_values _, rfl⟩
  · exact ⟨_, execInit_of_not_awaiting ha, performInit_values s, (performInit_sameHostInputs s).len⟩

/-! Register accesses inside and outside the interface (R46, U9) -/

section Accesses

variable {off : Nat} {v : Word32} {rest : List HostAct} {s : State}

theorem hostStep_read (ha : off % 4 = 0) :
    hostStep (.read off) rest s = .next (readRegister off { s with inbox := rest }) := by
  simp only [hostStep, aligned, ha, decide_true, if_true]

theorem hostStep_read_misaligned (ha : off % 4 ≠ 0) :
    hostStep (.read off) rest s = .refused (.misalignedAccess off) := by
  simp only [hostStep, aligned, ha, decide_false, Bool.false_eq_true, if_false]

theorem hostStep_write (ha : off % 4 = 0) :
    hostStep (.write off v) rest s = .next (writeRegister off v { s with inbox := rest }) := by
  simp only [hostStep, aligned, ha, decide_true, if_true]

theorem hostStep_write_misaligned (ha : off % 4 ≠ 0) :
    hostStep (.write off v) rest s = .refused (.misalignedAccess off) := by
  simp only [hostStep, aligned, ha, decide_false, Bool.false_eq_true, if_false]

theorem step_read (h : s.inbox = .read off :: rest) (ha : off % 4 = 0) :
    step s = .next (readRegister off { s with inbox := rest }) :=
  (step_act h rfl).trans (hostStep_read ha)

theorem step_read_misaligned (h : s.inbox = .read off :: rest) (ha : off % 4 ≠ 0) :
    step s = .refused (.misalignedAccess off) :=
  (step_act h rfl).trans (hostStep_read_misaligned ha)

/-- A write to a register other than CMD. -/
theorem step_write (h : s.inbox = .write off v :: rest) (hcmd : off ≠ 0x000) (ha : off % 4 = 0) :
    step s = .next (writeRegister off v { s with inbox := rest }) :=
  (step_act h (if_neg hcmd)).trans (hostStep_write ha)

theorem step_write_misaligned (h : s.inbox = .write off v :: rest) (ha : off % 4 ≠ 0) :
    step s = .refused (.misalignedAccess off) :=
  (step_act h (if_neg fun h0 => ha (by rw [h0]))).trans (hostStep_write_misaligned ha)

end Accesses

/-! What stops a step (R46, R63, U7, U9) -/

/-- The refusals of the model and the host acts they answer. -/
def OutsideInterface (act : HostAct) (s : State) (r : Refusal) : Prop :=
  match act with
  | .write off _ => off % 4 ≠ 0 ∧ r = .misalignedAccess off
  | .read off => off % 4 ≠ 0 ∧ r = .misalignedAccess off
  | .narrow off => r = .narrowAccess off
  | .present _ _ => s.held = true ∧ r = .sourceHeld
  | _ => False

/-- With the invariant, a busy PHASE has a command in flight (R39), so the engine never stops. -/
theorem engineStep_next {s : State} (h : s.Inv) : ∃ t, engineStep s = .next t := by
  obtain ⟨t, _, he⟩ | he | ⟨hb, hf, _⟩ := engineStep_cases s
  · exact ⟨t, he⟩
  · exact ⟨s, he⟩
  · have hflight := h.inFlight.1
    rw [hf, hb] at hflight
    cases hflight

/-- Every command has a next state from every state. -/
theorem exec_next (i : Instr) (s : State) : ∃ t, exec i s = .next t := by
  cases i with
  | rdText n =>
    change ∃ t, execRdText n s = .next t
    unfold execRdText
    split <;> exact ⟨_, rfl⟩
  | init =>
    change ∃ t, execInit s = .next t
    unfold execInit
    split <;> exact ⟨_, rfl⟩
  | _ => exact ⟨_, rfl⟩

theorem hostStep_outcome {s : State} (h : s.Inv) (act : HostAct) (rest : List HostAct) :
    (∃ t, hostStep act rest s = .next t)
    ∨ ∃ r, hostStep act rest s = .refused r ∧ OutsideInterface act s r := by
  have hrest : State.Inv { s with inbox := rest } := h.withHost h.source
  cases act with
  | write off v =>
    by_cases ha : off % 4 = 0
    · exact .inl ⟨_, hostStep_write ha⟩
    · exact .inr ⟨_, hostStep_write_misaligned ha, ha, rfl⟩
  | read off =>
    by_cases ha : off % 4 = 0
    · exact .inl ⟨_, hostStep_read ha⟩
    · exact .inr ⟨_, hostStep_read_misaligned ha, ha, rfl⟩
  | narrow off => exact .inr ⟨_, rfl, rfl⟩
  | tick => exact .inl (engineStep_next hrest)
  | wait =>
    simp only [hostStep]
    split
    · exact .inl (engineStep_next h)
    · exact .inl ⟨_, rfl⟩
  | present cells len =>
    simp only [hostStep]
    split
    next hheld => exact .inr ⟨_, rfl, hheld, rfl⟩
    next => exact .inl ⟨_, rfl⟩
  | answerOpen a => exact .inl ⟨_, rfl⟩
  | answerWrite a => exact .inl ⟨_, rfl⟩
  | reset => exact .inl ⟨_, rfl⟩

theorem step_outcome {s : State} (h : s.Inv) :
    (∃ t, step s = .next t)
    ∨ ∃ act rest r, s.inbox = act :: rest ∧ step s = .refused r ∧ OutsideInterface act s r := by
  cases hin : s.inbox with
  | nil => exact .inl (step_quiet hin ▸ engineStep_next h)
  | cons act rest =>
    cases hc : commandWord? act with
    | none =>
      rw [step_act hin hc]
      exact (hostStep_outcome h act rest).imp_right fun ⟨r, hr, hout⟩ => ⟨act, rest, r, rfl, hr, hout⟩
    | some w =>
      obtain ⟨i, _, hs⟩ | ⟨_, hs⟩ := step_command hin hc
      · exact .inl (hs ▸ exec_next i _)
      · exact .inl ⟨_, hs⟩

/-- Settles O54: the engine and the commands always go on; a host act is refused for one of three reasons. -/
theorem stepsStopOnlyOutsideTheInterface : Obligations.StepsStopOnlyOutsideTheInterface := by
  intro s h
  obtain ⟨t, hs⟩ | ⟨act, rest, r, hin, hs, hout⟩ := step_outcome h
  · exact ⟨fun r hr => (by cases hs.symm.trans hr), fun r hr => (by cases hs.symm.trans hr)⟩
  · refine ⟨fun r hr => (by cases hs.symm.trans hr), fun r' hr => ?_⟩
    cases hs.symm.trans hr
    cases act with
    | write off v => exact .inl ⟨off, v, rest, .inl hin, hout⟩
    | read off => exact .inl ⟨off, 0#32, rest, .inr hin, hout⟩
    | narrow off => exact .inr (.inl ⟨off, rest, hin, hout⟩)
    | present cells len => exact .inr (.inr ⟨cells, len, rest, hin, hout⟩)
    | tick | wait | answerOpen _ | answerWrite _ | reset => exact hout.elim

/-! What a read returns (R40, R47) -/

/-- A register that is no working register reads exactly in every phase (R47). -/
theorem readRegister_exact {off : Nat} {s : State} (h : workingRegister off s = none) :
    readRegister off s = { s with reads := s.reads ++ [exactRegister off s] } := by
  simp only [readRegister, h]

theorem readRegister_drawn {off : Nat} {s : State} (h : (workingRegister off s).isSome = true) (hb : s.busy = true) :
    readRegister off s = { s with reads := s.reads ++ [Config.busyRead s.draws], draws := s.draws + 1 } := by
  obtain ⟨v, hv⟩ := Option.isSome_iff_exists.1 h
  simp only [readRegister, hv, hb, if_true]

/-- The content of a register: what its offset reads while BUSY = 0. -/
def registerContent (off : Nat) (s : State) : Word32 := (workingRegister off s).getD (exactRegister off s)

theorem readRegister_idle {off : Nat} {s : State} (hb : s.busy = false) :
    readRegister off s = { s with reads := s.reads ++ [registerContent off s] } := by
  unfold registerContent
  cases h : workingRegister off s with
  | none => exact readRegister_exact h
  | some v => simp only [readRegister, h, hb, Bool.false_eq_true, if_false, Option.getD_some]

/-- Settles O51: a read returns a draw or a register's value, and an access outside the interface is refused. -/
theorem readsHaveNoSideEffects : Obligations.ReadsHaveNoSideEffects := by
  refine ⟨fun s off rest hin ha => ?_, fun s off v rest ha hin => ?_, fun s off rest hin => step_act hin rfl⟩
  · rw [step_read hin ha]
    by_cases hb : s.busy = true
    · cases hw : workingRegister off { s with inbox := rest } with
      | none => exact ⟨_, s.draws, congrArg _ (readRegister_exact hw)⟩
      | some v => exact ⟨_, s.draws + 1, congrArg _ (readRegister_drawn (by rw [hw]; rfl) hb)⟩
    · exact ⟨_, s.draws, congrArg _ (readRegister_idle (Bool.eq_false_iff.2 hb))⟩
  · obtain hin | hin := hin
    · exact step_read_misaligned hin ha
    · exact step_write_misaligned hin ha

/-! The register map, offset by offset -/

/-- The windows of R42, R44 and R45. -/
theorem workingRegister_himg {off : Nat} (s : State) (h : 0x1000 ≤ off ∧ off ≤ 0x1848) :
    workingRegister off s = some (himgWindow s (off - 0x1000)) := by
  unfold workingRegister
  iterate 8 rw [if_neg (by omega)]
  rw [if_pos h]

theorem workingRegister_dimg {off : Nat} (s : State) (h : 0x2000 ≤ off ∧ off ≤ 0x2A10) :
    workingRegister off s = some (dimgWindow s (off - 0x2000)) := by
  unfold workingRegister
  iterate 9 rw [if_neg (by omega)]
  rw [if_pos h]

theorem workingRegister_tbuf {off : Nat} (s : State) (h : 0x3000 ≤ off ∧ off ≤ 0x31FC) :
    workingRegister off s = some (tbufWindow s (off - 0x3000)) := by
  unfold workingRegister
  iterate 10 rw [if_neg (by omega)]
  rw [if_pos h]

/-- The offsets past PT_COUNT that lie in no window (R40, R46). -/
def Unmapped (off : Nat) : Prop :=
  0x05C ≤ off ∧ ¬ (0x1000 ≤ off ∧ off ≤ 0x1848) ∧ ¬ (0x2000 ≤ off ∧ off ≤ 0x2A10)
    ∧ ¬ (0x3000 ≤ off ∧ off ≤ 0x31FC)

theorem workingRegister_unmapped {off : Nat} (s : State) (h : Unmapped off) : workingRegister off s = none := by
  obtain ⟨hlow, hhimg, hdimg, htbuf⟩ := h
  unfold workingRegister
  iterate 8 rw [if_neg (by omega)]
  rw [if_neg hhimg, if_neg hdimg, if_neg htbuf]

theorem exactRegister_unmapped {off : Nat} (s : State) (h : Unmapped off) : exactRegister off s = 0#32 := by
  obtain ⟨hlow, _⟩ := h
  unfold exactRegister
  iterate 14 rw [if_neg (by omega)]

/-- The registers below the windows and what each holds (R40). -/
def registerMap (s : State) : List (Nat × Word32) :=
  [(0x000, 0#32), (0x004, statusWord s), (0x008, errWord s), (0x00C, s.errIdx),
    (0x010, s.errExp.extractLsb' 0 32), (0x014, s.errExp.extractLsb' 32 32), (0x018, s.errGot.extractLsb' 0 32),
    (0x01C, s.errGot.extractLsb' 32 32), (0x020, s.errOff.extractLsb' 0 32), (0x024, s.errOff.extractLsb' 32 32),
    (0x028, s.arg.extractLsb' 0 32), (0x02C, s.arg.extractLsb' 32 32), (0x030, s.cur.extractLsb' 0 32),
    (0x034, s.cur.extractLsb' 32 32), (0x038, s.len.extractLsb' 0 32), (0x03C, s.len.extractLsb' 32 32),
    (0x040, s.result), (0x044, s.ck.zeroExtend 32), (0x048, s.tlen.zeroExtend 32), (0x04C, s.pidx),
    (0x050, s.prog.zeroExtend 32), (0x054, s.ptSel), (0x058, ptCount s)]

theorem registerContent_of_mem_registerMap (s : State) :
    ∀ p ∈ registerMap s, p.1 % 4 = 0 ∧ registerContent p.1 s = p.2 := by
  simp only [registerMap, List.forall_mem_cons, List.not_mem_nil, false_imp_iff, implies_true, true_and, and_true]
  and_intros <;> rfl

theorem registerContent_unmapped {off : Nat} (s : State) (h : Unmapped off) : registerContent off s = 0#32 := by
  rw [registerContent, workingRegister_unmapped s h, Option.getD_none, exactRegister_unmapped s h]

/-- An aligned read while BUSY = 0 (R40, R46). -/
theorem step_read_idle {s : State} {off : Nat} {rest : List HostAct} (h : s.inbox = .read off :: rest)
    (hb : s.busy = false) (ha : off % 4 = 0) :
    step s = .next { s with inbox := rest, reads := s.reads ++ [registerContent off s] } :=
  (step_read h ha).trans (congrArg _ (readRegister_idle (s := { s with inbox := rest }) hb))

/-- Settles O49: by the registers of the map, the three windows, and the offsets that are neither. -/
theorem registerMapReads : Obligations.RegisterMapReads := by
  intro s off rest v hin hb hv
  suffices hcontent : off % 4 = 0 ∧ registerContent off s = v by
    obtain ⟨ha, rfl⟩ := hcontent
    exact step_read_idle hin hb ha
  obtain hmap | ⟨j, hj, rfl, rfl⟩ | ⟨j, hj, rfl, rfl⟩ | ⟨j, hj, rfl, rfl⟩ | ⟨ha, hlow, hhimg, hdimg, htbuf, rfl⟩ := hv
  · exact registerContent_of_mem_registerMap s (off, v) hmap
  · refine ⟨by omega, ?_⟩
    rw [registerContent, workingRegister_himg s (by omega), Option.getD_some, Nat.add_sub_cancel_left, himgWindow]
  · refine ⟨by omega, ?_⟩
    rw [registerContent, workingRegister_dimg s (by omega), Option.getD_some, Nat.add_sub_cancel_left, dimgWindow]
  · have hunit : 4 * j / 2 = 2 * j := by omega
    refine ⟨by omega, ?_⟩
    rw [registerContent, workingRegister_tbuf s (by omega), Option.getD_some, Nat.add_sub_cancel_left, tbufWindow, hunit]
  · exact ⟨ha, registerContent_unmapped s ⟨hlow, hhimg, hdimg, htbuf⟩⟩

/-! Reads while BUSY = 1 (R47, U1) -/

/-- The registers that read exactly in every phase (R47). -/
def exactMap (s : State) : List (Nat × Word32) :=
  [(0x004, statusWord s), (0x008, errWord s), (0x00C, s.errIdx), (0x010, s.errExp.extractLsb' 0 32),
    (0x014, s.errExp.extractLsb' 32 32), (0x018, s.errGot.extractLsb' 0 32), (0x01C, s.errGot.extractLsb' 32 32),
    (0x020, s.errOff.extractLsb' 0 32), (0x024, s.errOff.extractLsb' 32 32), (0x028, s.arg.extractLsb' 0 32),
    (0x02C, s.arg.extractLsb' 32 32), (0x038, s.len.extractLsb' 0 32), (0x03C, s.len.extractLsb' 32 32),
    (0x054, s.ptSel)]

theorem exactRegister_of_mem_exactMap (s : State) :
    ∀ p ∈ exactMap s, workingRegister p.1 s = none ∧ exactRegister p.1 s = p.2 := by
  simp only [exactMap, List.forall_mem_cons, List.not_mem_nil, false_imp_iff, implies_true, and_true]
  and_intros <;> rfl

/-- The working registers below the windows (R47). -/
theorem workingRegister_isSome_of_mem (s : State) :
    ∀ off ∈ [0x030, 0x034, 0x040, 0x044, 0x048, 0x04C, 0x050, 0x058], (workingRegister off s).isSome = true := by
  simp only [List.forall_mem_cons, List.not_mem_nil, false_imp_iff, implies_true, and_true]
  and_intros <;> rfl

/-- An aligned read of an exact register, in every phase. -/
theorem step_read_exact {s : State} {off : Nat} {rest : List HostAct} (h : s.inbox = .read off :: rest)
    (ha : off % 4 = 0) (hw : workingRegister off s = none) :
    step s = .next { s with inbox := rest, reads := s.reads ++ [exactRegister off s] } :=
  (step_read h ha).trans (congrArg _ (readRegister_exact (s := { s with inbox := rest }) hw))

/-- Settles O50: by which offsets are working registers. -/
theorem busyReadsAreExactOrDrawn : Obligations.BusyReadsAreExactOrDrawn := by
  intro s off rest hin hb ha
  refine ⟨fun hoff => ?_, fun hoff => ?_, fun v hv => ?_⟩
  · have hsome : (workingRegister off { s with inbox := rest }).isSome = true := by
      obtain hreg | hwin | hwin | hwin := hoff
      · exact workingRegister_isSome_of_mem _ off hreg
      · rw [workingRegister_himg _ hwin]; rfl
      · rw [workingRegister_dimg _ hwin]; rfl
      · rw [workingRegister_tbuf _ hwin]; rfl
    exact (step_read hin ha).trans (congrArg _ (readRegister_drawn hsome hb))
  · obtain ⟨hnone, hzero⟩ : workingRegister off s = none ∧ exactRegister off s = 0#32 := by
      obtain rfl | hun := hoff
      · exact ⟨rfl, rfl⟩
      · exact ⟨workingRegister_unmapped s hun, exactRegister_unmapped s hun⟩
    rw [step_read_exact hin ha hnone, hzero]
  · obtain ⟨hnone, hval⟩ := exactRegister_of_mem_exactMap s (off, v) hv
    rw [step_read_exact hin ha hnone, hval]

/-! STATUS (R41) -/

theorem getLsbD_flagBit (b : Bool) (k i : Nat) :
    (flagBit b k).getLsbD i = (b && (decide (k < 32) && decide (i = k))) := by
  cases b with
  | false => simp [flagBit]
  | true =>
    rw [flagBit, if_pos rfl, ← BitVec.twoPow_eq, BitVec.getLsbD_twoPow]
    simp only [Bool.true_and, eq_comm]

/-- The bits of STATUS below PHASE. -/
theorem getLsbD_statusWord_flags (s : State) {i : Nat} (hi : i < 12) :
    (statusWord s).getLsbD i =
      [s.busy, s.xd, decide (s.errKind ≠ .none), s.ovr, s.hv, s.sv, s.tv, s.cv, s.c1, s.held, s.dopen, false].getD i
        false := by
  simp only [statusWord, BitVec.getLsbD_or, getLsbD_flagBit, BitVec.getLsbD_shiftLeft, hi]
  interval_cases i <;> simp [-BitVec.getLsbD_eq_getElem]

/-- PHASE stands in STATUS from bit 12 on, with nothing above its four bits. -/
theorem getLsbD_statusWord_phase (s : State) (j : Nat) : (statusWord s).getLsbD (12 + j) = s.phase.code.getLsbD j := by
  have hflag (b : Bool) {k : Nat} (hk : k < 12) : (flagBit b k).getLsbD (12 + j) = false := by
    rw [getLsbD_flagBit, decide_eq_false (show ¬ 12 + j = k by omega), Bool.and_false, Bool.and_false]
  have hshift : (s.phase.code.zeroExtend 32 <<< 12).getLsbD (12 + j) = s.phase.code.getLsbD j := by
    rw [BitVec.getLsbD_shiftLeft, Nat.add_sub_cancel_left, BitVec.getLsbD_setWidth]
    by_cases hj : j < 4
    · simp [show 12 + j < 32 by omega, show j < 32 by omega]
    · simp [BitVec.getLsbD_of_ge s.phase.code j (by omega)]
  simp only [statusWord, BitVec.getLsbD_or, hshift, hflag, Nat.reduceLT, Bool.false_or]

/-- A write to STATUS (R41, R207). -/
theorem writeRegister_status (v : Word32) (s : State) :
    writeRegister 0x004 v s = { s with ovr := s.ovr || s.busy } := by
  cases hb : s.busy with
  | true => rw [writeRegister, if_pos hb, Bool.or_true]; rfl
  | false => rw [writeRegister, if_neg (by simp [hb]), Bool.or_false]; rfl

/-- Settles O48: STATUS is an exact register, and its word is the flags and PHASE bit by bit. -/
theorem statusReadsTheFlags : Obligations.StatusReadsTheFlags := by
  refine ⟨fun s v rest hin => ?_, fun s rest hin => ⟨statusWord s, step_read_exact hin rfl rfl, ?_⟩⟩
  · rw [step_write hin (by decide) rfl, writeRegister_status]
    rfl
  · have hflags (i : Nat) (hi : i < 12) := getLsbD_statusWord_flags s hi
    refine ⟨hflags 0 (by decide), hflags 1 (by decide), hflags 2 (by decide), hflags 3 (by decide),
      hflags 4 (by decide), hflags 5 (by decide), hflags 6 (by decide), hflags 7 (by decide), hflags 8 (by decide),
      hflags 9 (by decide), hflags 10 (by decide), hflags 11 (by decide), ?_, ?_, fun h => ?_⟩
    · refine BitVec.eq_of_getLsbD_eq fun j hj => ?_
      rw [BitVec.getLsbD_extractLsb', getLsbD_statusWord_phase, decide_eq_true hj, Bool.true_and]
    · refine BitVec.eq_of_getLsbD_eq fun j hj => ?_
      rw [BitVec.getLsbD_extractLsb', show 16 + j = 12 + (4 + j) by omega, getLsbD_statusWord_phase,
        BitVec.getLsbD_of_ge _ _ (by omega), Bool.and_false, BitVec.getLsbD_zero]
    · exact (hflags 2 (by decide)).trans (decide_eq_decide.2 h.error.1)

end Sys2Proof.Machine

namespace Sys2Proof.Machine

/-! A command in one step and in micro-steps (R70, log entry 2): the host's coming accesses decide only whether a started
command is drained at once, and draining is a run of the machine while the host is silent. -/

/-- The result does not depend on what the host does next, and leaves it. -/
def IgnoresInbox (g : State → State) : Prop :=
  ∀ (s : State) (acts : List HostAct), g { s with inbox := acts } = { g s with inbox := acts }

theorem setInbox_self {s : State} {acts : List HostAct} (h : s.inbox = acts) : { s with inbox := acts } = s := by
  subst h
  rfl

/-- With a silent host the accesses put in its place and taken away again leave no trace. -/
theorem IgnoresInbox.restored {g : State → State} (hg : IgnoresInbox g) {s : State} (hin : s.inbox = [])
    (acts : List HostAct) : { g { s with inbox := acts } with inbox := [] } = g s := by
  have hback := hg s []
  rw [setInbox_self hin] at hback
  rw [hg]
  exact hback.symm

theorem refuseBusy_ignoresInbox : IgnoresInbox refuseBusy := fun _ _ => rfl

theorem failedWith_ignoresInbox (e : ErrInfo) : IgnoresInbox (failedWith e) := fun _ _ => rfl

theorem beginStage_ignoresInbox (ph : Phase) (c : Instr) (st : Stage) : IgnoresInbox (beginStage ph c st) :=
  fun _ _ => rfl

theorem beginHdr_ignoresInbox (c : Instr) : IgnoresInbox (beginHdr c) := fun _ _ => rfl

theorem beginStruct_ignoresInbox (c : Instr) : IgnoresInbox (beginStruct c) := fun _ _ => rfl

theorem beginTable_ignoresInbox (c : Instr) : IgnoresInbox (beginTable c) := fun _ _ => rfl

theorem beginExtract_ignoresInbox (c : Instr) : IgnoresInbox (beginExtract c) := fun _ _ => rfl

theorem beginCksum_ignoresInbox (c : Instr) : IgnoresInbox (beginCksum c) := fun s acts => by
  by_cases hmagic : (hdrMagic s.himg).zeroExtend 64 = 0x00000000FFFAFFFA#64
  · simp only [beginCksum, if_pos hmagic]
    rfl
  · simp only [beginCksum, if_neg hmagic]
    rfl

theorem performInit_ignoresInbox : IgnoresInbox performInit := fun s acts => by
  simp only [performInit, release_close_eq]
  rfl

/-- A command other than INIT is accepted with a start that looks at nothing of the host's, or, as RD_TEXT with an illegal
count, is an illegal word: from every state alike (R91, R205). -/
theorem exec_uniform {i : Instr} (hi : i ≠ .init) :
    (∃ start : State → State, IgnoresInbox start ∧ (∀ u, Untouched u (start u))
        ∧ ∀ s, exec i s = .next (accept i start s))
      ∨ ∀ s, exec i s = .next (acceptIllegal (encode i) s) := by
  cases i with
  | ckReset | ckUpdate _ | seek | rdU16 | rdU32 =>
    exact .inl ⟨_, beginStage_ignoresInbox _ _ _, beginStage_untouched _ _ _, fun _ => rfl⟩
  | rdText n =>
    by_cases hn : textLengthLegal n = true
    · exact .inl ⟨_, beginStage_ignoresInbox _ _ _, beginStage_untouched _ _ _, fun _ => if_pos hn⟩
    · exact .inr fun _ => if_neg hn
  | hdrDecode | run _ => exact .inl ⟨_, beginHdr_ignoresInbox _, beginHdr_untouched _, fun _ => rfl⟩
  | valStruct => exact .inl ⟨_, beginStruct_ignoresInbox _, beginStruct_untouched _, fun _ => rfl⟩
  | ptDecode => exact .inl ⟨_, beginTable_ignoresInbox _, beginTable_untouched _, fun _ => rfl⟩
  | valCksum => exact .inl ⟨_, beginCksum_ignoresInbox _, beginCksum_untouched _, fun _ => rfl⟩
  | extract => exact .inl ⟨_, beginExtract_ignoresInbox _, beginExtract_untouched _, fun _ => rfl⟩
  | init => exact absurd rfl hi

/-! Acceptance by phase (R205) -/

theorem accept_failed (c : Instr) (start : State → State) {s : State} (hp : s.phase = .failed) :
    accept c start s = s := by
  simp only [accept, hp]

theorem accept_busy (c : Instr) (start : State → State) {s : State} (hb : s.busy = true) :
    accept c start s = refuseBusy s := by
  obtain ⟨hp, _⟩ | ⟨_, ht⟩ | ⟨_, hp, _⟩ | ⟨hp, _⟩ := accept_cases c start s
  · exact absurd hp (phase_ne_failed_of_busy hb)
  · exact ht
  · simp [State.busy, hp, Phase.busy] at hb
  · simp [State.busy, hp, Phase.busy] at hb

theorem accept_missing {c : Instr} (start : State → State) {s : State} {m : Milestone} (hp : s.phase = .idle)
    (hm : missing (precondition c) s = some m) : accept c start s = failedWith (sequenceInfo m (encode c)) s := by
  simp only [accept, hp, hm, takeError_eq]

theorem acceptIllegal_ignoresInbox (w : Word32) : IgnoresInbox (acceptIllegal w) := fun s acts => by
  cases hp : s.phase with
  | failed => simp only [acceptIllegal, hp]
  | idle => simp only [acceptIllegal, hp, takeError_eq]; rfl
  | _ => simp only [acceptIllegal, hp, refuseBusy]

/-- Acceptance while the host goes on: as with a silent host, but that a command that starts is left at its start. -/
theorem accept_ticking (c : Instr) {start : State → State} (hstart : IgnoresInbox start) {s : State}
    (hin : s.inbox = []) :
    { accept c start { s with inbox := [.tick] } with inbox := [] } = accept c start s
      ∨ (accept c start s = settle (start s)
        ∧ { accept c start { s with inbox := [.tick] } with inbox := [] } = start s) := by
  obtain ⟨hp, ht⟩ | ⟨hb, ht⟩ | ⟨m, hp, hm, ht⟩ | ⟨hp, hm, ht⟩ := accept_cases c start s
  · rw [ht, accept_failed c start (s := { s with inbox := [.tick] }) hp]
    exact .inl (setInbox_self hin)
  · rw [ht, accept_busy c start (s := { s with inbox := [.tick] }) hb]
    exact .inl (refuseBusy_ignoresInbox.restored hin _)
  · rw [ht, accept_missing start (s := { s with inbox := [.tick] }) hp hm]
    exact .inl ((failedWith_ignoresInbox _).restored hin _)
  · refine .inr ⟨ht, ?_⟩
    have hloud : hostQuiet (start { s with inbox := [.tick] }) = false := by rw [hstart]; rfl
    rw [accept_idle (s := { s with inbox := [.tick] }) hp hm, settle_notQuiet hloud]
    exact hstart.restored hin _

/-! Micro-steps as steps of the machine -/

theorem engineStep_of_tick {s t : State} (h : engineTick s = some t) : engineStep s = .next t := by
  simp only [engineStep, h]

theorem run_succ {M : Host.Core} {k : Nat} {s t : M.State} (h : M.step s = .next t) : M.run (k + 1) s = M.run k t := by
  simp only [Host.Core.run, h]

/-- While the host is silent a run of k steps performs k micro-steps (R70). -/
theorem run_of_ticks {k : Nat} {s t : State} (h : Ticks k s t) (hin : s.inbox = []) :
    Host.Core.run Sys2Proof.core k s = .next t := by
  induction h with
  | refl s => rfl
  | @head k s u t hu _ ih =>
    have hstep : Sys2Proof.core.step s = .next u := (step_quiet hin).trans (engineStep_of_tick hu)
    have hin' : u.inbox = [] := (engineTick_commandFrame hu).inputs.inbox.trans hin
    exact (run_succ hstep).trans (ih hin')

/-- A command just started with a silent host is drained by a run of the machine. -/
theorem run_to_settle {s : State} (hin : s.inbox = []) :
    ∃ k, Host.Core.run Sys2Proof.core k s = .next (settle s) := by
  obtain ⟨k, _, hk, _⟩ := drain_ticks drainBound s
  rw [settle_quiet (by rw [hostQuiet, hin])]
  exact ⟨k, run_of_ticks hk hin⟩

theorem execInit_of_awaiting {s : State} (h : s.awaiting = true) :
    exec .init s = .next { s with initPending := true } := if_pos h

/-- Settles O11: a command that starts is drained by the run; every other outcome is the same at once. -/
theorem commandIsItsMicroSteps : Obligations.CommandIsItsMicroSteps := by
  intro i s hin
  by_cases hi : i = .init
  · subst hi
    by_cases ha : s.awaiting = true
    · refine ⟨0, _, execInit_of_awaiting (s := { s with inbox := [.tick] }) ha, ?_⟩
      rw [execInit_of_awaiting ha, ← hin]
      rfl
    · have ha : s.awaiting = false := Bool.eq_false_iff.2 ha
      refine ⟨0, _, execInit_of_not_awaiting (s := { s with inbox := [.tick] }) ha, ?_⟩
      rw [execInit_of_not_awaiting ha, performInit_ignoresInbox.restored hin]
      rfl
  · obtain ⟨start, hstart, hframe, he⟩ | he := exec_uniform hi
    · have hinbox : (start s).inbox = [] := (hframe s).inbox.trans hin
      obtain hsame | ⟨hsettle, hopen⟩ := accept_ticking i hstart hin
      · exact ⟨0, _, he _, by rw [he, hsame]; rfl⟩
      · obtain ⟨k, hk⟩ := run_to_settle hinbox
        exact ⟨k, _, he _, by rw [he, hsettle, hopen]; exact hk⟩
    · exact ⟨0, _, he _, by rw [he, (acceptIllegal_ignoresInbox _).restored hin]; rfl⟩

end Sys2Proof.Machine

namespace Sys2Proof.Machine

/-! The transactions of a micro-step (R68, R70): EV stays as it is, or gains one event whose precondition holds. -/

/-- From s to t EV gains nothing, or one transaction that R68 allows in s. -/
def OneTransaction (s t : State) : Prop :=
  t.ev = s.ev ∨ ∃ e, t.ev = s.ev ++ [e] ∧ portPrecondition e s = true

theorem OneTransaction.single {s t : State} (e : Event) (hev : t.ev = s.ev ++ [e])
    (hpre : portPrecondition e s = true) : OneTransaction s t :=
  .inr ⟨e, hev, hpre⟩

/-! Before the extraction EV stays as it is -/

theorem beginCksum_ev (c : Instr) (s : State) : (beginCksum c s).ev = s.ev := by
  unfold beginCksum
  split <;> rfl

theorem afterHdr_ev (c : Instr) (s : State) : (afterHdr c s).ev = s.ev := by
  unfold afterHdr
  split <;> rfl

theorem afterStruct_ev (c : Instr) (s : State) : (afterStruct c s).ev = s.ev := by
  unfold afterStruct
  split
  · exact beginCksum_ev _ s
  · rfl
  · rfl

theorem afterCksum_ev (c : Instr) (s : State) : (afterCksum c s).ev = s.ev := by
  unfold afterCksum
  split <;> rfl

theorem afterTable_ev (c : Instr) (s : State) : (afterTable c s).ev = s.ev := by
  unfold afterTable
  split <;> rfl

/-- A read of the source is no transaction of EV (R61, R68). -/
theorem memRead_ev {idx : Word32} {a n : Nat} {s t : State} {B : List Byte} (h : memRead idx a n s = .ok (B, t)) :
    t.ev = s.ev := by
  obtain ⟨_, hm⟩ | ⟨_, hm⟩ := memRead_cases idx a n s <;> cases hm.symm.trans h
  rfl

theorem tickRdU16_ev (c : Instr) (s : State) : (tickRdU16 c s).ev = s.ev := by
  unfold tickRdU16
  split
  · rfl
  next hm => exact (memRead_ev hm :)

theorem tickRdU32_ev (c : Instr) (s : State) : (tickRdU32 c s).ev = s.ev := by
  unfold tickRdU32
  split
  · rfl
  next hm => exact (memRead_ev hm :)

theorem tickRdText_ev (c : Instr) (n : Nat) (s : State) : (tickRdText c n s).ev = s.ev := by
  unfold tickRdText
  split
  · rfl
  next hm => exact (memRead_ev hm :)

theorem tickHdr_ev (c : Instr) (s : State) : (tickHdr c s).ev = s.ev := by
  unfold tickHdr
  split
  · rfl
  · split
    · rfl
    next hm => exact (afterHdr_ev _ _).trans (memRead_ev hm :)

theorem tickStruct_ev (c : Instr) (s : State) : (tickStruct c s).ev = s.ev := by
  simp only [tickStruct]
  split
  · rfl
  · split
    · rfl
    · exact afterStruct_ev _ _

theorem foldPiece_ev (c : Instr) (next : Nat → Stage) (p b : Nat) (s : State) : (foldPiece c next p b s).ev = s.ev := by
  simp only [foldPiece]
  split
  · rfl
  next hm => exact (memRead_ev hm :)

theorem tickFold1_ev (c : Instr) (p : Nat) (s : State) : (tickFold1 c p s).ev = s.ev := by
  unfold tickFold1
  split
  · exact foldPiece_ev _ _ _ _ s
  · split <;> rfl

theorem tickFold2_ev (c : Instr) (p : Nat) (s : State) : (tickFold2 c p s).ev = s.ev := by
  unfold tickFold2
  split
  · exact foldPiece_ev _ _ _ _ s
  · split
    · rfl
    · exact afterCksum_ev _ _

theorem tickTabLen_ev (c : Instr) (i : Nat) (s : State) : (tickTabLen c i s).ev = s.ev := by
  unfold tickTabLen
  split
  · split
    · rfl
    next hm => split <;> exact (memRead_ev hm :)
  · exact afterTable_ev _ _

theorem tickTabBody_ev (c : Instr) (i : Nat) (W : List Byte) (s : State) : (tickTabBody c i W s).ev = s.ev := by
  unfold tickTabBody
  generalize recordAddr s i = a
  obtain ⟨_, hm⟩ | ⟨_, hm⟩ := memRead_cases (indexWord i) (a + 4) 2576 s <;> simp only [hm] <;> rfl

/-! The extraction and the error entry -/

/-- SrcRelease is performed only when the source is held (R68). -/
theorem releaseIfHeld_oneTransaction (s : State) : OneTransaction s (releaseIfHeld s) := by
  unfold releaseIfHeld
  split
  next hheld => exact .single .srcRelease rfl hheld
  next => exact .inl rfl

theorem errorStep_oneTransaction (e : ErrInfo) (s : State) : OneTransaction s (errorStep e s) := by
  unfold errorStep
  split
  next hopen =>
    rw [closeIfOpen, if_pos hopen]
    exact .single .dstClose rfl hopen
  next =>
    split
    · exact releaseIfHeld_oneTransaction s
    · exact .inl rfl

/-- X_BODY opens a partition only with no destination open, and at its end releases the source (R185, R194). -/
theorem tickPart_oneTransaction {c : Instr} {i : Nat} {s t : State} (hclosed : s.dopen = false)
    (h : tickPart c i s = some t) : OneTransaction s t := by
  simp only [tickPart] at h
  split at h
  · generalize s.pt.getD i [] = D at h
    split at h
    · cases h
      exact .inl rfl
    · split at h
      · cases h
      next a rest _ =>
        have hpre : portPrecondition (.dstOpen (trimUnits s.pad (pdFileNameUnits D))) s = true := by
          rw [portPrecondition, hclosed]; rfl
        cases a <;> cases h <;> exact .single _ rfl hpre
  · cases h
    exact releaseIfHeld_oneTransaction { s with xd := true }

theorem tickChunkRead_oneTransaction {c : Instr} {i p rem size : Nat} {s : State} (hopen : s.dopen = true) :
    OneTransaction s (tickChunkRead c i p rem size s) := by
  unfold tickChunkRead
  split
  · exact .single .dstClose rfl hopen
  · split
    · exact .inl rfl
    next hm => exact .inl (memRead_ev hm :)

theorem tickChunkWrite_oneTransaction {c : Instr} {i p rem size : Nat} {B : List Byte} {s t : State}
    (hopen : s.dopen = true) (h : tickChunkWrite c i p rem size B s = some t) : OneTransaction s t := by
  simp only [tickChunkWrite] at h
  split at h
  · cases h
  next a rest _ => cases a <;> cases h <;> exact .single (.dstWrite B) rfl hopen

/-- DOPEN is as each stage of the extraction needs it (R27, R39), so no micro-step breaks a precondition of R68. -/
theorem stageTick_oneTransaction {f : Flight} {s t : State} (hok : stageOk f s) (h : stageTick f s = some t) :
    OneTransaction s t := by
  obtain ⟨c, st⟩ := f
  cases st with
  | ckReset | ckUpdate _ | seek => cases h; exact .inl rfl
  | rdU16 => cases h; exact .inl (tickRdU16_ev c s)
  | rdU32 => cases h; exact .inl (tickRdU32_ev c s)
  | rdText n => cases h; exact .inl (tickRdText_ev c _ s)
  | hdr => cases h; exact .inl (tickHdr_ev c s)
  | struct => cases h; exact .inl (tickStruct_ev c s)
  | fold1 p => cases h; exact .inl (tickFold1_ev c p s)
  | fold2 p => cases h; exact .inl (tickFold2_ev c p s)
  | tabLen i => cases h; exact .inl (tickTabLen_ev c i s)
  | tabBody i W => cases h; exact .inl (tickTabBody_ev c i W s)
  | part i =>
    obtain ⟨_, _, _, _, hclosed⟩ := hok
    exact tickPart_oneTransaction hclosed h
  | chunkRead i p rem size =>
    obtain ⟨_, _, _, _, _, _, _, hopen⟩ := hok
    cases h
    exact tickChunkRead_oneTransaction hopen
  | chunkWrite i p rem size B =>
    obtain ⟨_, _, _, _, _, _, _, _, _, _, hopen⟩ := hok
    exact tickChunkWrite_oneTransaction hopen h
  | progress i p rem size => cases h; exact .single (.progress (indexWord i) s.prog) rfl rfl
  | raising e => cases h; exact errorStep_oneTransaction e s

theorem engineTick_oneTransaction {s t : State} (hinv : s.Inv) (hinit : s.initPending = false)
    (h : engineTick s = some t) : OneTransaction s t := by
  obtain ⟨f, hf, ⟨u, hu, _, ⟨_, rfl⟩ | ⟨hpend, _⟩⟩ | ⟨_, _, rfl⟩⟩ := engineTick_cases h
  · exact (stageTick_oneTransaction (hinv.inFlight.2 f hf) hu :)
  · cases hinit.symm.trans hpend
  · exact .inl rfl

/-- Settles O45: the precondition by the stage of the micro-step, the ranges because the next state has the invariant. -/
theorem microStepsCarryOneTransaction : Obligations.MicroStepsCarryOneTransaction := by
  intro s t hinv hinit h
  refine (engineTick_oneTransaction hinv hinit h).imp_right fun ⟨e, hev, hpre⟩ => ⟨e, hev, hpre, ?_⟩
  have hrange := (engineTick_inv hinv h).events e (by rw [hev]; exact List.mem_append_right _ (List.mem_singleton_self e))
  rwa [(engineTick_commandFrame h).inputs.xchunk] at hrange

end Sys2Proof.Machine

namespace Sys2Proof.Machine

/-! The container the host presents (R31, R63, U7): the listed cells read back, everything else is 0x00. -/

/-- An offset that no entry of the source lists reads 0x00. -/
theorem Memory.byteAt_of_not_listed {a : Nat} : ∀ {m : Memory}, (∀ c ∈ m, c.1 ≠ a) → m.byteAt a = 0#8
  | [], _ => rfl
  | (k, b) :: m, h => by
    obtain ⟨hk, hm⟩ := List.forall_mem_cons.1 h
    rw [Memory.byteAt, if_neg hk]
    exact Memory.byteAt_of_not_listed hm

/-- One presented cell put into the source; one at or past `len` lies outside (R60). -/
def placeCell (len : Nat) (m : Memory) (c : Host.Cell) : Memory := if c.1 < len then Memory.set m c.1 c.2 else m

theorem Memory.ofCells_eq (cells : List Host.Cell) (len : Nat) :
    Memory.ofCells cells len = cells.foldl (placeCell len) [] := rfl

theorem placeCell_wf {len : Nat} {m : Memory} (c : Host.Cell) (h : m.wf = true) : (placeCell len m c).wf = true := by
  unfold placeCell
  split
  · exact Memory.set_keeps_wf _ _ h
  · exact h

theorem byteAt_placeCell_same {len : Nat} {m : Memory} {c : Host.Cell} (h : m.wf = true) (hc : c.1 < len) :
    (placeCell len m c).byteAt c.1 = c.2 := by
  rw [placeCell, if_pos hc, Memory.byteAt_set c.1 c.1 c.2 h, if_pos rfl]

theorem byteAt_placeCell_other {len a : Nat} {m : Memory} {c : Host.Cell} (h : m.wf = true) (hne : c.1 ≠ a) :
    (placeCell len m c).byteAt a = m.byteAt a := by
  unfold placeCell
  split
  · rw [Memory.byteAt_set c.1 a c.2 h, if_neg hne.symm]
  · rfl

/-- The byte a list of cells gives offset a, or `rest` when it lists none. -/
def cellByte (cells : List Host.Cell) (a : Nat) (rest : Byte) : Byte :=
  ((cells.find? (fun c => c.1 = a)).map Prod.snd).getD rest

theorem cellByte_cons_same (c : Host.Cell) (cells : List Host.Cell) (rest : Byte) :
    cellByte (c :: cells) c.1 rest = c.2 := by
  simp [cellByte]

theorem cellByte_cons_other {c : Host.Cell} {a : Nat} (cells : List Host.Cell) (rest : Byte) (h : c.1 ≠ a) :
    cellByte (c :: cells) a rest = cellByte cells a rest := by
  simp [cellByte, h]

theorem cellByte_not_listed {cells : List Host.Cell} {a : Nat} (rest : Byte) (h : a ∉ cells.map Prod.fst) :
    cellByte cells a rest = rest := by
  have hnone : cells.find? (fun c => c.1 = a) = none := by
    refine List.find?_eq_none.2 fun c hc hca => h ?_
    rw [← of_decide_eq_true hca]
    exact List.mem_map_of_mem hc
  rw [cellByte, hnone]
  rfl

/-- Inside [0, len) the cells, no offset listed twice, put their bytes over what the source held. -/
theorem byteAt_foldl_placeCell {len a : Nat} (ha : a < len) : ∀ (cells : List Host.Cell) (m : Memory),
    (cells.map Prod.fst).Nodup → m.wf = true →
    (cells.foldl (placeCell len) m).byteAt a = cellByte cells a (m.byteAt a)
  | [], _, _, _ => rfl
  | c :: cells, m, hnodup, hm => by
    rw [List.map_cons, List.nodup_cons] at hnodup
    obtain ⟨hfresh, hnodup⟩ := hnodup
    rw [List.foldl_cons, byteAt_foldl_placeCell ha cells _ hnodup (placeCell_wf c hm)]
    by_cases hc : c.1 = a
    · subst hc
      rw [cellByte_not_listed _ hfresh, byteAt_placeCell_same hm ha, cellByte_cons_same]
    · rw [byteAt_placeCell_other hm hc, cellByte_cons_other _ _ hc]

/-- A presented byte below the length reads back, and every other offset reads 0x00 (R60, R63). -/
theorem Memory.byteAt_ofCells {cells : List Host.Cell} (hnodup : (cells.map Prod.fst).Nodup) (len a : Nat) :
    (Memory.ofCells cells len).byteAt a = if a < len then cellByte cells a 0#8 else 0#8 := by
  split
  next ha => exact byteAt_foldl_placeCell ha cells [] hnodup rfl
  next ha =>
    obtain ⟨_, hinside⟩ := Memory.ofCells_wf cells len
    refine Memory.byteAt_of_not_listed fun c hc hca => ha ?_
    exact hca ▸ hinside c hc

theorem step_present_held {s : State} {cells : List Host.Cell} {len : Word64} {rest : List HostAct}
    (h : s.inbox = .present cells len :: rest) (hheld : s.held = true) : step s = .refused .sourceHeld :=
  (step_act h rfl).trans (if_pos hheld)

theorem step_present {s : State} {cells : List Host.Cell} {len : Word64} {rest : List HostAct}
    (h : s.inbox = .present cells len :: rest) (hheld : s.held = false) :
    step s = .next { s with inbox := rest, src := Memory.ofCells cells len.toNat, len := len } :=
  (step_act h rfl).trans (if_neg (Bool.eq_false_iff.1 hheld))

/-- Settles O52: the source presented is the one `Memory.ofCells` builds cell by cell. -/
theorem hostPresentsTheSource : Obligations.HostPresentsTheSource := by
  intro s cells len rest hin
  obtain ⟨hwf, _⟩ := Memory.ofCells_wf cells len.toNat
  refine ⟨step_present_held hin, fun hheld => ⟨_, step_present hin hheld, hwf, fun hnodup a => ?_⟩⟩
  rw [Memory.byteAt_ofCells hnodup, cellByte]
  cases cells.find? (fun c => c.1 = a) <;> rfl

end Sys2Proof.Machine

namespace Sys2Proof.Machine

/-! Transactions and the host's answers (R68, R69, U15): the stage without its answer waits, and with it goes on. -/

/-- A stage whose answer is missing waits, however often the engine steps (U15). -/
theorem engineStep_waiting {s : State} {f : Flight} (hf : s.flight = some f) (ht : stageTick f s = none) :
    engineStep s = .next { s with awaiting := true } := by
  cases ha : s.awaiting with
  | false => simp [engineStep, engineTick, hf, ht, ha]
  | true =>
    have hself : { s with awaiting := true } = s := by rw [← ha]
    have hnone : engineTick s = none := by simp [engineTick, hf, ht, ha]
    rw [hself]
    simp [engineStep, hnone, hf]

/-- With no INIT pending the engine's step is the stage's micro-step, and nothing waits afterwards. -/
theorem engineStep_stage {s t : State} {f : Flight} (hf : s.flight = some f) (hinit : s.initPending = false)
    (ht : stageTick f s = some t) : engineStep s = .next { t with awaiting := false } := by
  have hinit' : t.initPending = false := (stageTick_untouched ht).initPending.trans hinit
  simp [engineStep, engineTick, hf, ht, afterTick, hinit']

section Answers

variable {s : State} {c : Instr}

theorem stageTick_part_unanswered {i : Nat} (hi : i < s.pt.length)
    (hsize : pdPartitionSize (s.pt.getD i []) ≠ 0#32) (ha : s.openAnswers = []) :
    stageTick ⟨c, .part i⟩ s = none := by
  have hsize' : (pdPartitionSize (s.pt.getD i [])).toNat ≠ 0 := fun h => hsize (BitVec.eq_of_toNat_eq h)
  simp only [stageTick, tickPart, if_pos hi, if_neg hsize', ha]

theorem stageTick_chunkWrite_unanswered {i p rem size : Nat} {B : List Byte} (ha : s.writeAnswers = []) :
    stageTick ⟨c, .chunkWrite i p rem size B⟩ s = none := by
  simp only [stageTick, tickChunkWrite, ha]

/-- A text decode of 256 units fills TBUF with them (R34). -/
theorem setText_fileName (D : List Byte) (s : State) :
    setText (pdFileNameUnits D) s =
      { s with tbuf := pdFileNameUnits D
               tlen := BitVec.ofNat 9 (trimUnits s.pad (pdFileNameUnits D)).length } := by
  have hlen : (pdFileNameUnits D).length = 256 := length_unitsOf _ _ _
  have hpad : pdFileNameUnits D ++ zeroUnits (256 - (pdFileNameUnits D).length) = pdFileNameUnits D := by
    rw [hlen]
    exact List.append_nil _
  rw [setText, hpad]

/-- DstOpen answered OK (R68, R69, R185). -/
theorem stageTick_part_ok {i : Nat} {D : List Byte} {rest : List OpenAnswer} (hi : i < s.pt.length)
    (hD : s.pt.getD i [] = D) (hsize : pdPartitionSize D ≠ 0#32) (ha : s.openAnswers = .ok :: rest) :
    stageTick ⟨c, .part i⟩ s = some
      { s with openAnswers := rest, pidx := indexWord i, prog := 0#7
               cur := (pdPartitionAddr D).zeroExtend 64, tbuf := pdFileNameUnits D
               tlen := BitVec.ofNat 9 (trimUnits s.pad (pdFileNameUnits D)).length
               ev := s.ev ++ [.dstOpen (trimUnits s.pad (pdFileNameUnits D))], dopen := true
               dests := openDest (trimUnits s.pad (pdFileNameUnits D)) s.dests
               flight := some ⟨c, .chunkRead i (pdPartitionAddr D).toNat (pdPartitionSize D).toNat
                 (pdPartitionSize D).toNat⟩ } := by
  have hsize' : (pdPartitionSize D).toNat ≠ 0 := fun h => hsize (BitVec.eq_of_toNat_eq h)
  simp only [stageTick, tickPart, if_pos hi, hD, if_neg hsize', ha, setText_fileName, setCursor, BitVec.ofNat_toNat]
  rfl

/-- DstWrite answered OK (R68, R69, R190). -/
theorem stageTick_chunkWrite_ok {i p rem size : Nat} {B : List Byte} {rest : List WriteAnswer}
    (ha : s.writeAnswers = .ok :: rest) :
    stageTick ⟨c, .chunkWrite i p rem size B⟩ s = some
      { s with writeAnswers := rest, ev := s.ev ++ [.dstWrite B], dests := appendDest B s.dests
               cur := BitVec.ofNat 64 (p + B.length), prog := BitVec.ofNat 7 (progressPct (rem - B.length) size)
               flight := some ⟨c, .progress i (p + B.length) (rem - B.length) size⟩ } := by
  simp only [stageTick, tickChunkWrite, ha]
  rfl

end Answers

/-- Settles O58: by the micro-step of the stage that stands on the port. -/
theorem answeredTransactionsGoOn : Obligations.AnsweredTransactionsGoOn := by
  refine ⟨fun s c i hin hf hi hsize ha => ?_, fun s c i p rem size B hin hf ha => ?_, fun s a rest hin => ?_,
    fun s a rest hin => ?_, fun s c i rest hin hinit hf hi hsize ha => ?_,
    fun s c i p rem size B rest d ds hin hinit hf ha hd => ?_⟩
  · rw [step_quiet hin, engineStep_waiting hf (stageTick_part_unanswered hi hsize ha)]
  · rw [step_quiet hin, engineStep_waiting hf (stageTick_chunkWrite_unanswered ha)]
  · exact step_act hin rfl
  · exact step_act hin rfl
  · rw [step_quiet hin, engineStep_stage hf hinit (stageTick_part_ok hi rfl hsize ha)]
    rfl
  · rw [step_quiet hin, engineStep_stage hf hinit (stageTick_chunkWrite_ok ha), hd]
    rfl

end Sys2Proof.Machine

namespace Sys2Proof

/-! The opcode map: a word of one row is a word of no other, and a word is its operand field and its other bits
(R85-R91). -/

/-! Rows -/

/-- Two patterns that differ where both masks look accept no common word. -/
theorem masked_ne_of_masked_eq {w m p m' p' : Word32} (h : w &&& m = p) (hdiffer : p &&& m' ≠ p' &&& m) :
    ¬ w &&& m' = p' := by
  rintro rfl
  subst h
  exact hdiffer (by rw [BitVec.and_assoc, BitVec.and_comm m, BitVec.and_assoc])

/-- A word of a row is no fixed word that the row does not accept. -/
theorem ne_of_masked_eq {w m p c : Word32} (h : w &&& m = p) (hc : c &&& m ≠ p) : ¬ w = c := by
  rintro rfl
  exact hc h

/-- Every two rows of the opcode map differ where both masks look (R88). -/
theorem opcodeMap_patterns_differ :
    opcodeMap.Pairwise fun r q => r.pattern &&& q.mask ≠ q.pattern &&& r.mask := by decide

/-- No word has two rows (R88). -/
theorem opcodeMap_rows_exclusive (w : Word32) :
    opcodeMap.Pairwise fun r q => ¬ (r.accepts w = true ∧ q.accepts w = true) := by
  refine opcodeMap_patterns_differ.imp fun hdiffer => ?_
  rintro ⟨hr, hq⟩
  exact masked_ne_of_masked_eq (of_decide_eq_true hr) hdiffer (of_decide_eq_true hq)

/-! Operand fields -/

/-- The bits k to k + n - 1 of a word. -/
def fieldMask (k n : Nat) : Word32 := (BitVec.allOnes n).zeroExtend 32 <<< k

/-- A field and the bits outside it make up the word. -/
theorem rest_or_field (w : Word32) (k n : Nat) :
    (w &&& ~~~fieldMask k n) ||| ((w.extractLsb' k n).zeroExtend 32 <<< k) = w := by
  ext i hi
  by_cases hlow : i < k
  · simp [fieldMask, hlow]
  · by_cases hfield : i - k < n
    · have hpos : k + (i - k) = i := by omega
      simp [fieldMask, hlow, hfield, hi, hpos]
    · simp [fieldMask, hlow, hfield]

/-- Filling a field leaves the bits outside it. -/
theorem masked_or_field {k n : Nat} {p : Word32} (hp : p &&& ~~~fieldMask k n = p) (x : BitVec n) :
    (p ||| (x.zeroExtend 32 <<< k)) &&& ~~~fieldMask k n = p := by
  have hx : (x.zeroExtend 32 <<< k) &&& ~~~fieldMask k n = 0#32 := by
    ext i hi
    by_cases hfield : i - k < n
    · simp +contextual [fieldMask, hfield]
    · simp [fieldMask, hfield, BitVec.getLsbD_of_ge x (i - k) (by omega)]
  rw [BitVec.and_or_distrib_right, hp, hx, BitVec.or_zero]

/-- A field filled where the pattern is zero reads back. -/
theorem field_or_field {k n : Nat} {p : Word32} (hp : p.extractLsb' k n = 0#n) (hk : k + n ≤ 32) (x : BitVec n) :
    (p ||| (x.zeroExtend 32 <<< k)).extractLsb' k n = x := by
  have hx : (x.zeroExtend 32 <<< k).extractLsb' k n = x := by
    ext i hi
    have hin : k + i < 32 := by omega
    simp [hin, BitVec.getLsbD_eq_getElem hi]
  rw [BitVec.extractLsb'_or, hp, hx, BitVec.zero_or]

/-! The rows with an operand, decoded and encoded -/

/-- A word of CK_UPDATE's row decodes to CK_UPDATE of its BYTE (R88, R89). -/
theorem decode_of_ckUpdate_row {w : Word32} (h : w &&& 0xFFFF00FF#32 = 0x00000002#32) :
    decode w = .ok (.ckUpdate (byteField w)) := by
  simp (disch := decide) only [decode, ne_of_masked_eq h, h, if_true, if_false]

/-- A word of RD_TEXT's row decodes to RD_TEXT of its N when N is in 1..256 (R88, R89). -/
theorem decode_of_rdText_row {w : Word32} (h : w &&& 0xFE00FFFF#32 = 0x00000013#32)
    (hn : textLengthLegal (textField w) = true) : decode w = .ok (.rdText (textField w)) := by
  simp (disch := decide) only [decode, ne_of_masked_eq h, masked_ne_of_masked_eq h, h, hn, if_true, if_false]

/-- A word of RUN's row decodes to RUN of its V (R88, R89). -/
theorem decode_of_run_row {w : Word32} (h : w &&& 0xFFFFFEFF#32 = 0x00000030#32) :
    decode w = .ok (.run (verifyField w)) := by
  simp (disch := decide) only [decode, ne_of_masked_eq h, masked_ne_of_masked_eq h, h, if_true, if_false]

/-- RUN's format written as the others: V stands in the one-bit field 8 (R86). -/
theorem encode_run (v : Bool) :
    encode (.run v) = 0x00000030#32 ||| ((BitVec.ofBool v).zeroExtend 32 <<< 8) := by
  cases v <;> rfl

/-- V is the one-bit field 8 (R87). -/
theorem ofBool_verifyField (w : Word32) : BitVec.ofBool (verifyField w) = w.extractLsb' 8 1 := by
  ext i hi
  obtain rfl : i = 0 := by omega
  simp [verifyField]

/-- A word of CK_UPDATE's row is the encoding of its command. -/
theorem encode_of_ckUpdate_row {w : Word32} (h : w &&& 0xFFFF00FF#32 = 0x00000002#32) :
    encode (.ckUpdate (byteField w)) = w := by
  have hw := rest_or_field w 8 8
  rwa [show ~~~fieldMask 8 8 = 0xFFFF00FF#32 from rfl, h] at hw

/-- A word of RD_TEXT's row is the encoding of its command, legal or not. -/
theorem encode_of_rdText_row {w : Word32} (h : w &&& 0xFE00FFFF#32 = 0x00000013#32) :
    encode (.rdText (textField w)) = w := by
  have hw := rest_or_field w 16 9
  rwa [show ~~~fieldMask 16 9 = 0xFE00FFFF#32 from rfl, h] at hw

/-- A word of RUN's row is the encoding of its command. -/
theorem encode_of_run_row {w : Word32} (h : w &&& 0xFFFFFEFF#32 = 0x00000030#32) :
    encode (.run (verifyField w)) = w := by
  have hw := rest_or_field w 8 1
  rwa [show ~~~fieldMask 8 1 = 0xFFFFFEFF#32 from rfl, h, ← ofBool_verifyField, ← encode_run] at hw

/-- Every operand of RUN reads back from its word. -/
theorem verifyField_encode_run (v : Bool) : verifyField (encode (.run v)) = v := by
  cases v <;> rfl

/-- Settles O2: a fixed word is its own row, and a filled operand field leaves the row's bits and reads back. -/
theorem decodeOfEncode : Obligations.DecodeOfEncode := by
  intro i hi
  cases i with
  | ckUpdate b =>
    have hrow : encode (.ckUpdate b) &&& 0xFFFF00FF#32 = 0x00000002#32 := masked_or_field (k := 8) rfl b
    have hbyte : byteField (encode (.ckUpdate b)) = b := field_or_field rfl (by decide) b
    rw [decode_of_ckUpdate_row hrow, hbyte]
  | rdText n =>
    have hrow : encode (.rdText n) &&& 0xFE00FFFF#32 = 0x00000013#32 := masked_or_field (k := 16) rfl n
    have htext : textField (encode (.rdText n)) = n := field_or_field rfl (by decide) n
    rw [decode_of_rdText_row hrow (htext.symm ▸ hi), htext]
  | run v =>
    have hrow : encode (.run v) &&& 0xFFFFFEFF#32 = 0x00000030#32 := encode_run v ▸ masked_or_field (k := 8) rfl _
    rw [decode_of_run_row hrow, verifyField_encode_run]
  | ckReset | seek | rdU16 | rdU32 | hdrDecode | valStruct | ptDecode | valCksum | extract | init => rfl

/-! What a decoded word encodes -/

/-- A decoder's answer for w, if it is a command, is a legal one with the word w. -/
def AnswerEncodes (w : Word32) (answer : Except DecodeError Instr) : Prop :=
  ∀ i, answer = .ok i → i.wf = true ∧ encode i = w

theorem AnswerEncodes.error (w : Word32) (e : DecodeError) : AnswerEncodes w (.error e) := fun _ h => by cases h

theorem AnswerEncodes.ok {w : Word32} {i : Instr} (hwf : i.wf = true) (hw : encode i = w) :
    AnswerEncodes w (.ok i) := by
  rintro _ ⟨⟩
  exact ⟨hwf, hw⟩

/-- A row without operand: the word is the row's own. -/
theorem AnswerEncodes.fixed {w c : Word32} {i : Instr} (hwf : i.wf = true) (hc : encode i = c) (h : w = c) :
    AnswerEncodes w (.ok i) :=
  .ok hwf (hc.trans h.symm)

/-- One row of the decoder's chain: the row's answer, or that of the rows after it. -/
theorem AnswerEncodes.row {w : Word32} {c : Prop} [Decidable c] {own rest : Except DecodeError Instr}
    (hown : c → AnswerEncodes w own) (hrest : AnswerEncodes w rest) : AnswerEncodes w (if c then own else rest) := by
  split
  · exact hown ‹c›
  · exact hrest

/-- Settles O3: row by row along the decoder's chain. -/
theorem decodedWordIsItsEncoding : Obligations.DecodedWordIsItsEncoding := by
  intro w
  change AnswerEncodes w (decode w)
  unfold decode
  exact .row (.fixed rfl rfl) <|
    .row (fun h => .ok rfl (encode_of_ckUpdate_row h)) <|
    .row (.fixed rfl rfl) <|
    .row (.fixed rfl rfl) <|
    .row (.fixed rfl rfl) <|
    .row (fun h => .row (fun hn => .ok hn (encode_of_rdText_row h)) (.error w _)) <|
    .row (.fixed rfl rfl) <|
    .row (.fixed rfl rfl) <|
    .row (.fixed rfl rfl) <|
    .row (.fixed rfl rfl) <|
    .row (.fixed rfl rfl) <|
    .row (fun h => .ok rfl (encode_of_run_row h)) <|
    .row (.fixed rfl rfl) <|
    .row (fun _ => .error w _) (.error w _)

/-! The words that decode -/

/-- Every legal command's word is in the row of its mnemonic (R88). -/
theorem rowAccepts_encode : ∀ {i : Instr}, i.wf = true → rowAccepts i.mnemonic (encode i) = true
  | .ckReset => Laws.EncodedInItsRow.ckReset
  | .ckUpdate b => Laws.EncodedInItsRow.ckUpdate b
  | .seek => Laws.EncodedInItsRow.seek
  | .rdU16 => Laws.EncodedInItsRow.rdU16
  | .rdU32 => Laws.EncodedInItsRow.rdU32
  | .rdText n => Laws.EncodedInItsRow.rdText n
  | .hdrDecode => Laws.EncodedInItsRow.hdrDecode
  | .valStruct => Laws.EncodedInItsRow.valStruct
  | .ptDecode => Laws.EncodedInItsRow.ptDecode
  | .valCksum => Laws.EncodedInItsRow.valCksum
  | .extract => Laws.EncodedInItsRow.extract
  | .run v => Laws.EncodedInItsRow.run v
  | .init => Laws.EncodedInItsRow.init

/-- The legal counts as the two bounds of R91. -/
theorem textLengthLegal_iff {n : BitVec 9} : textLengthLegal n = true ↔ 1 ≤ n.toNat ∧ n.toNat ≤ 256 := by
  simp [textLengthLegal]

/-- A word of a mnemonic's row, with RD_TEXT's extra condition, has a row (R88). -/
theorem exists_row_of_rowAccepts {name : String} {w : Word32} (h : rowAccepts name w = true) :
    ∃ r ∈ opcodeMap, r.accepts w = true ∧
      (r.mnemonic = "RD_TEXT" → 1 ≤ (textField w).toNat ∧ (textField w).toNat ≤ 256) := by
  obtain ⟨r, hr, hrow⟩ := List.any_eq_true.mp h
  simp only [Bool.and_eq_true, Bool.or_eq_true, decide_eq_true_eq, bne_iff_ne] at hrow
  obtain ⟨⟨rfl, haccepts⟩, hlength⟩ := hrow
  refine ⟨r, hr, haccepts, fun hname => ?_⟩
  exact textLengthLegal_iff.mp (hlength.resolve_left (absurd hname))

/-- A word of a row whose mask covers every bit is the row's pattern, so it decodes if the pattern does. -/
theorem decodes_of_full_mask {w p : Word32} {i : Instr} (hp : decode p = .ok i) (h : w &&& 0xFFFFFFFF#32 = p) :
    ∃ i, decode w = .ok i := by
  have hw : w &&& 0xFFFFFFFF#32 = w := BitVec.and_allOnes
  exact ⟨i, by rw [← hw, h, hp]⟩

/-- A word of a row, with RD_TEXT's extra condition, decodes (R88, R89). -/
theorem decodes_of_row {r : OpRow} {w : Word32} (hr : r ∈ opcodeMap) (haccepts : r.accepts w = true)
    (hlength : r.mnemonic = "RD_TEXT" → 1 ≤ (textField w).toNat ∧ (textField w).toNat ≤ 256) :
    ∃ i, decode w = .ok i := by
  have hrow : w &&& r.mask = r.pattern := of_decide_eq_true haccepts
  simp only [opcodeMap, List.mem_cons, List.not_mem_nil, or_false] at hr
  rcases hr with rfl | rfl | rfl | rfl | rfl | rfl | rfl | rfl | rfl | rfl | rfl | rfl | rfl
  · exact decodes_of_full_mask rfl hrow
  · exact ⟨_, decode_of_ckUpdate_row hrow⟩
  · exact decodes_of_full_mask rfl hrow
  · exact decodes_of_full_mask rfl hrow
  · exact decodes_of_full_mask rfl hrow
  · exact ⟨_, decode_of_rdText_row hrow (textLengthLegal_iff.mpr (hlength rfl))⟩
  · exact decodes_of_full_mask rfl hrow
  · exact decodes_of_full_mask rfl hrow
  · exact decodes_of_full_mask rfl hrow
  · exact decodes_of_full_mask rfl hrow
  · exact decodes_of_full_mask rfl hrow
  · exact ⟨_, decode_of_run_row hrow⟩
  · exact decodes_of_full_mask rfl hrow

/-- Settles O4: a decoded word is its command's encoding, which is in that command's row; a word of a row decodes; and
the rows are exclusive. -/
theorem opcodeMapSelectsOneRow : Obligations.OpcodeMapSelectsOneRow := by
  refine ⟨fun w => ⟨?_, ?_⟩, opcodeMap_rows_exclusive⟩
  · rintro ⟨i, hi⟩
    obtain ⟨hwf, rfl⟩ := decodedWordIsItsEncoding w i hi
    exact exists_row_of_rowAccepts (rowAccepts_encode hwf)
  · rintro ⟨r, hr, haccepts, hlength⟩
    exact decodes_of_row hr haccepts hlength

/-- Settles O1: each legal word is its command's encoding, and each illegal one is named by the decoder. -/
theorem writtenWordsDecode : Obligations.WrittenWordsDecode :=
  ⟨decodeOfEncode .ckReset rfl, decodeOfEncode (.ckUpdate 0x41#8) rfl, decodeOfEncode .seek rfl,
    decodeOfEncode .rdU16 rfl, decodeOfEncode .rdU32 rfl, decodeOfEncode (.rdText 24#9) rfl,
    decodeOfEncode (.rdText 256#9) rfl, decodeOfEncode .hdrDecode rfl, decodeOfEncode .valStruct rfl,
    decodeOfEncode .ptDecode rfl, decodeOfEncode .valCksum rfl, decodeOfEncode .extract rfl,
    decodeOfEncode (.run false) rfl, decodeOfEncode (.run true) rfl, decodeOfEncode .init rfl,
    rfl, rfl, rfl, rfl⟩

end Sys2Proof

namespace Sys2Proof.Machine

/-! Bytes and the values stored in them, low byte first (R64): stored text (R101) and the record codec (R102). -/

/-! Integers and their bytes -/

/-- The bytes of LE16 are the two bytes it was read from. -/
theorem bytes16_le16 (B : List Byte) (o : Nat) : bytes16 (le16 B o) = [byteOf B o, byteOf B (o + 1)] := by
  have hv := toNat_le16 B o
  simp only [bytes16, List.cons.injEq, and_true]
  refine ⟨?_, ?_⟩ <;> apply BitVec.eq_of_toNat_eq <;>
    rw [BitVec.extractLsb'_toNat, Nat.shiftRight_eq_div_pow] <;> omega

/-- The bytes of LE32 are the four bytes it was read from. -/
theorem bytes32_le32 (B : List Byte) (o : Nat) :
    bytes32 (le32 B o) = [byteOf B o, byteOf B (o + 1), byteOf B (o + 2), byteOf B (o + 3)] := by
  have hv := toNat_le32 B o
  simp only [bytes32, List.cons.injEq, and_true]
  refine ⟨?_, ?_, ?_, ?_⟩ <;> apply BitVec.eq_of_toNat_eq <;>
    rw [BitVec.extractLsb'_toNat, Nat.shiftRight_eq_div_pow] <;> omega

/-- LE16 of the bytes of a unit is the unit, whatever comes after them. -/
theorem le16_bytes16_append (u : CodeUnit) (B : List Byte) : le16 (bytes16 u ++ B) 0 = u := by
  apply BitVec.eq_of_toNat_eq
  have hlow : byteOf (bytes16 u ++ B) 0 = u.extractLsb' 0 8 := rfl
  have hhigh : byteOf (bytes16 u ++ B) 1 = u.extractLsb' 8 8 := rfl
  rw [toNat_le16, hlow, hhigh, BitVec.extractLsb'_toNat, BitVec.extractLsb'_toNat, Nat.shiftRight_zero,
    Nat.shiftRight_eq_div_pow]
  omega

/-! Stored text -/

@[simp] theorem length_bytes16 (u : CodeUnit) : (bytes16 u).length = 2 := rfl

/-- A slot takes two bytes a unit (R101). -/
theorem length_storeText (V padding : List CodeUnit) :
    (storeText V padding).length = 2 * (V.length + padding.length) := by
  simp [storeText, List.length_flatMap, Nat.mul_comm, Nat.mul_add]

theorem byteOf_append_right (A B : List Byte) (o : Nat) : byteOf (A ++ B) (A.length + o) = byteOf B o := by
  rw [byteOf, byteOf, List.getD_append_right _ _ _ _ (Nat.le_add_right _ _), Nat.add_sub_cancel_left]

/-- Units read past a prefix are those of the rest. -/
theorem unitsOf_append_right (A B : List Byte) (n : Nat) :
    ∀ o, unitsOf (A ++ B) (A.length + o) n = unitsOf B o n := by
  induction n with
  | zero => exact fun _ => rfl
  | succ n ih =>
    intro o
    have hunit : le16 (A ++ B) (A.length + o) = le16 B o := by
      simp only [le16, Nat.add_assoc, byteOf_append_right]
    rw [unitsOf, unitsOf, hunit, Nat.add_assoc, ih]

/-- Units stored one after the other read back. -/
theorem unitsOf_flatMap_bytes16 (U : List CodeUnit) : unitsOf (U.flatMap bytes16) 0 U.length = U := by
  induction U with
  | nil => rfl
  | cons u U ih =>
    have hrest := unitsOf_append_right (bytes16 u) (U.flatMap bytes16) U.length 0
    rw [List.flatMap_cons, List.length_cons, unitsOf, le16_bytes16_append]
    exact congrArg (u :: ·) (hrest.trans ih)

/-- TRIM leaves a text whose last unit is no PAD unit (R16). -/
theorem trimUnits_eq_self {p : PadRule} {V : List CodeUnit} (hV : ∀ u, V.getLast? = some u → padUnit p u = false) :
    trimUnits p V = V := by
  refine List.rdropWhile_eq_self_iff.mpr fun hne => ?_
  simp [hV _ (List.getLast?_eq_some_getLast hne)]

/-- Settles O30: the units read back, TRIM drops the padding, and the value's own last unit ends the run it drops. -/
theorem storedTextReadsBack : Obligations.StoredTextReadsBack := by
  intro p V padding hpadding hV
  refine ⟨length_storeText V padding, ?_⟩
  rw [textOf, storeText, ← List.length_append, unitsOf_flatMap_bytes16, trimUnits_append hpadding, trimUnits_eq_self hV]

/-! The record codec -/

/-- The n bytes from offset o. -/
def bytesFrom (B : List Byte) (o n : Nat) : List Byte := (List.range n).map fun i => byteOf B (o + i)

/-- All bytes of B are B. -/
theorem bytesFrom_all (B : List Byte) : bytesFrom B 0 B.length = B := by
  refine List.ext_getElem (by simp [bytesFrom]) fun i _ hi => ?_
  simp [bytesFrom, byteOf, hi]

/-- Bytes from an offset are two runs of bytes, one after the other. -/
theorem bytesFrom_add (B : List Byte) (o n k : Nat) :
    bytesFrom B o (n + k) = bytesFrom B o n ++ bytesFrom B (o + n) k := by
  simp [bytesFrom, List.range_add, Nat.add_assoc]

/-- Writing units back gives the bytes they were read from. -/
theorem flatMap_bytes16_unitsOf (B : List Byte) (n : Nat) :
    ∀ o, (unitsOf B o n).flatMap bytes16 = bytesFrom B o (2 * n) := by
  induction n with
  | zero => exact fun _ => rfl
  | succ n ih =>
    intro o
    rw [unitsOf, List.flatMap_cons, ih, bytes16_le16, Nat.mul_succ, Nat.add_comm (2 * n), bytesFrom_add]
    rfl

/-- Writing words back gives the bytes they were read from. -/
theorem flatMap_bytes32_wordsOf (B : List Byte) (n : Nat) :
    ∀ o, (wordsOf B o n).flatMap bytes32 = bytesFrom B o (4 * n) := by
  induction n with
  | zero => exact fun _ => rfl
  | succ n ih =>
    intro o
    rw [wordsOf, List.flatMap_cons, ih, bytes32_le32, Nat.mul_succ, Nat.add_comm (4 * n), bytesFrom_add]
    rfl

/-- Writing a field back gives the bytes it was read from. -/
theorem writeField_readField (sh : FieldShape) (B : List Byte) (o : Nat) :
    writeField (readField sh B o) = bytesFrom B o (fieldBytes sh) := by
  cases sh with
  | text n => exact flatMap_bytes16_unitsOf B n o
  | u32 => exact bytes32_le32 B o
  | u16 => exact bytes16_le16 B o
  | words n => exact flatMap_bytes32_wordsOf B n o

/-- The bytes the fields of a layout take (R93). -/
def layoutBytes (layout : List (String × FieldShape)) : Nat := (layout.map fun f => fieldBytes f.2).sum

/-- Writing back the fields of any layout gives the bytes they were read from. -/
theorem encodeRecord_decodeRecord (B : List Byte) (layout : List (String × FieldShape)) :
    ∀ o, encodeRecord (decodeRecord o layout B) = bytesFrom B o (layoutBytes layout) := by
  induction layout with
  | nil => exact fun _ => rfl
  | cons f layout ih =>
    intro o
    calc encodeRecord (decodeRecord o (f :: layout) B)
      _ = writeField (readField f.2 B o) ++ encodeRecord (decodeRecord (o + fieldBytes f.2) layout B) := rfl
      _ = bytesFrom B o (fieldBytes f.2) ++ bytesFrom B (o + fieldBytes f.2) (layoutBytes layout) := by
        rw [writeField_readField, ih]
      _ = bytesFrom B o (layoutBytes (f :: layout)) := (bytesFrom_add B o _ _).symm

/-- A record as long as its layout is written back whole. -/
theorem encodeRecord_decodeRecord_of_length {B : List Byte} {layout : List (String × FieldShape)}
    (h : B.length = layoutBytes layout) : encodeRecord (decodeRecord 0 layout B) = B := by
  rw [encodeRecord_decodeRecord, ← h, bytesFrom_all]

/-- Settles O33: the two layouts take exactly 2124 and 2580 bytes. -/
theorem recordsRoundTrip : Obligations.RecordsRoundTrip :=
  ⟨fun _ h => encodeRecord_decodeRecord_of_length (layout := headerLayout) h,
    fun _ h => encodeRecord_decodeRecord_of_length (layout := descriptorLayout) h⟩

end Sys2Proof.Machine

namespace Sys2Proof.Machine

/-! The primitives (R110): each is one micro-step, which ends the command or raises an error. -/

/-! From acceptance to the end of a primitive -/

/-- A stage that begins and ends at once leaves the idle state it began with. -/
theorem complete_beginStage {ph : Phase} {c : Instr} {st : Stage} {t : State} (hidle : t.phase = .idle)
    (hfree : t.flight = none) : complete (beginStage ph c st t) = t := by
  cases t
  subst hidle hfree
  rfl

section Primitive

variable {c : Instr} {st : Stage} {s : State}

/-- A primitive whose micro-step ends it with the registers of t ends in t. -/
theorem exec_prim_completes {t : State} (hexec : exec c s = .next (accept c (beginStage .prim c st) s))
    (hpre : precondition c = none) (hr : Ready s) (hidle : t.phase = .idle) (hfree : t.flight = none)
    (htick : stageTick ⟨c, st⟩ (beginStage .prim c st s) = some (complete (beginStage .prim c st t))) :
    exec c s = .next t := by
  rw [complete_beginStage hidle hfree] at htick
  rw [hexec, accept_to hr (by rw [hpre]; rfl) (beginStage_untouched _ _ _ s) (.stage hr.calm rfl htick) hfree
    (by decide)]

/-- A primitive whose micro-step raises an error and changes nothing ends in that error's entry (R110). -/
theorem exec_prim_raises {e : ErrInfo} (hexec : exec c s = .next (accept c (beginStage .prim c st) s))
    (hpre : precondition c = none) (hr : Ready s)
    (htick : stageTick ⟨c, st⟩ (beginStage .prim c st s) = some (raise c e (beginStage .prim c st s))) :
    exec c s = .next (failedWith e s) := by
  have huntouched := beginStage_untouched .prim c st s
  rw [hexec, accept_to_raise hr (by rw [hpre]; rfl) huntouched (.stage (huntouched.calm hr.calm) rfl htick) huntouched
    (by decide)]
  rfl

end Primitive

/-! Reads at the cursor (R61, R112-R114) -/

/-- What a read of n bytes at the cursor raises when it passes L (R61). -/
def shortReadInfo (n : Nat) (s : State) : ErrInfo :=
  ⟨.srcShort, 0#32, BitVec.ofNat 64 n, BitVec.ofNat 64 (s.len.toNat - s.cur.toNat), s.cur⟩

theorem memRead_cursor_short {n : Nat} {s : State} (h : s.len.toNat < s.cur.toNat + n) :
    memRead 0#32 s.cur.toNat n s = .error (shortReadInfo n s) := by
  rw [memRead_short h, BitVec.ofNat_toNat, BitVec.setWidth_eq, shortReadInfo]

/-- Byte i of a read is the source's byte there. -/
theorem byteOf_read (m : Memory) (a : Nat) {n i : Nat} (h : i < n) : byteOf (m.read a n) i = m.byteAt (a + i) := by
  rw [byteOf, List.getD_eq_getElem _ _ (by rwa [Memory.length_read]), Memory.getElem_read]

/-- LE16 of two source bytes, zero-extended as RESULT takes it (R112). -/
theorem le16_read (m : Memory) (a : Nat) : (le16 (m.read a 2) 0).zeroExtend 32 =
    BitVec.ofNat 32 ((m.byteAt a).toNat + 256 * (m.byteAt (a + 1)).toNat) := by
  rw [BitVec.zeroExtend, ← BitVec.ofNat_toNat, toNat_le16, byteOf_read m a (by decide), byteOf_read m a (by decide)]
  rfl

/-- LE32 of four source bytes (R113). -/
theorem le32_read (m : Memory) (a : Nat) : le32 (m.read a 4) 0 =
    BitVec.ofNat 32 ((m.byteAt a).toNat + 256 * (m.byteAt (a + 1)).toNat + 65536 * (m.byteAt (a + 2)).toNat
      + 16777216 * (m.byteAt (a + 3)).toNat) := by
  rw [← BitVec.setWidth_eq (le32 (m.read a 4) 0), ← BitVec.ofNat_toNat, toNat_le32, byteOf_read m a (by decide),
    byteOf_read m a (by decide), byteOf_read m a (by decide), byteOf_read m a (by decide)]
  rfl

/-- The cursor moved on by n, computed on unbounded integers, is CUR + n in 64 bits (R30). -/
theorem setCursor_advance (n : Nat) (s t : State) :
    setCursor (s.cur.toNat + n) t = { t with cur := s.cur + BitVec.ofNat 64 n } := by
  rw [setCursor, BitVec.ofNat_add, BitVec.ofNat_toNat, BitVec.setWidth_eq]

/-! The readers' micro-steps (R112-R114) -/

section Ticks

variable {c : Instr} {s : State}

theorem tickRdU16_reads (h : s.cur.toNat + 2 ≤ s.len.toNat) : tickRdU16 c s = complete
    { s with result := BitVec.ofNat 32 ((s.src.byteAt s.cur.toNat).toNat
               + 256 * (s.src.byteAt (s.cur.toNat + 1)).toNat),
             cur := s.cur + 2#64, held := true } := by
  simp only [tickRdU16, memRead_ok h, setCursor_advance, le16_read]

theorem tickRdU32_reads (h : s.cur.toNat + 4 ≤ s.len.toNat) : tickRdU32 c s = complete
    { s with result := BitVec.ofNat 32 ((s.src.byteAt s.cur.toNat).toNat
               + 256 * (s.src.byteAt (s.cur.toNat + 1)).toNat + 65536 * (s.src.byteAt (s.cur.toNat + 2)).toNat
               + 16777216 * (s.src.byteAt (s.cur.toNat + 3)).toNat),
             cur := s.cur + 4#64, held := true } := by
  simp only [tickRdU32, memRead_ok h, setCursor_advance, le32_read]

theorem tickRdText_reads {n : Nat} (h : s.cur.toNat + 2 * n ≤ s.len.toNat) : tickRdText c n s = complete
    { s with tbuf := unitsOf (s.src.read s.cur.toNat (2 * n)) 0 n ++ zeroUnits (256 - n),
             tlen := BitVec.ofNat 9 (textOf s.pad (s.src.read s.cur.toNat (2 * n)) 0 n).length,
             cur := s.cur + BitVec.ofNat 64 (2 * n), held := true } := by
  simp only [tickRdText, memRead_ok h, setCursor_advance, setText, length_unitsOf, textOf]

theorem tickRdU16_short (h : s.len.toNat < s.cur.toNat + 2) : tickRdU16 c s = raise c (shortReadInfo 2 s) s := by
  simp only [tickRdU16, memRead_cursor_short h]

theorem tickRdU32_short (h : s.len.toNat < s.cur.toNat + 4) : tickRdU32 c s = raise c (shortReadInfo 4 s) s := by
  simp only [tickRdU32, memRead_cursor_short h]

theorem tickRdText_short {n : Nat} (h : s.len.toNat < s.cur.toNat + 2 * n) :
    tickRdText c n s = raise c (shortReadInfo (2 * n) s) s := by
  simp only [tickRdText, memRead_cursor_short h]

end Ticks

/-! RD_TEXT's count (R91, R114) -/

theorem exec_rdText_legal {n : BitVec 9} (hn : 1 ≤ n.toNat ∧ n.toNat ≤ 256) (s : State) :
    exec (.rdText n) s = .next (accept (.rdText n) (beginStage .prim (.rdText n) (.rdText n)) s) :=
  if_pos (textLengthLegal_iff.2 hn)

theorem exec_rdText_illegal {n : BitVec 9} (hn : ¬ (1 ≤ n.toNat ∧ n.toNat ≤ 256)) (s : State) :
    exec (.rdText n) s = .next (acceptIllegal (encode (.rdText n)) s) :=
  if_neg (mt textLengthLegal_iff.1 hn)

theorem acceptIllegal_idle (w : Word32) {s : State} (h : s.phase = .idle) :
    acceptIllegal w s = failedWith (illegalInfo w) s := by
  simp only [acceptIllegal, h, takeError_eq]

/-! The reader's statements -/

/-- Settles O23: SEEK's micro-step writes CUR alone. -/
theorem seekSetsTheCursor : Obligations.SeekSetsTheCursor := fun _ hr =>
  exec_prim_completes rfl rfl hr hr.idle hr.noFlight rfl

/-- Settles O24: the one read succeeds, and RESULT is LE16 of its bytes. -/
theorem rdU16ReadsTwoBytes : Obligations.RdU16ReadsTwoBytes := fun s hr h =>
  exec_prim_completes rfl rfl hr hr.idle hr.noFlight
    (congrArg some (tickRdU16_reads (s := beginStage .prim .rdU16 .rdU16 s) h))

/-- Settles O25: the one read succeeds, and RESULT is LE32 of its bytes. -/
theorem rdU32ReadsFourBytes : Obligations.RdU32ReadsFourBytes := fun s hr h =>
  exec_prim_completes rfl rfl hr hr.idle hr.noFlight
    (congrArg some (tickRdU32_reads (s := beginStage .prim .rdU32 .rdU32 s) h))

/-- Settles O26: a legal count starts the one read, and any other is the illegal word. -/
theorem rdTextFillsTheTextBuffer : Obligations.RdTextFillsTheTextBuffer := by
  refine ⟨fun s n hr hlow hhigh h => ?_, fun s n hn hidle => ?_⟩
  · exact exec_prim_completes (exec_rdText_legal ⟨hlow, hhigh⟩ s) rfl hr hr.idle hr.noFlight
      (congrArg some (tickRdText_reads (s := beginStage .prim (.rdText n) (.rdText n) s) h))
  · rw [exec_rdText_illegal hn, acceptIllegal_idle _ hidle]
    rfl

/-- Settles O27: the one read of each reader fails and nothing else of its micro-step runs. -/
theorem shortReadsChangeNoResult : Obligations.ShortReadsChangeNoResult := by
  refine fun s hr => ⟨fun h => ?_, fun h => ?_, fun n hlow hhigh h => ?_⟩
  · exact exec_prim_raises rfl rfl hr (congrArg some (tickRdU16_short (s := beginStage .prim .rdU16 .rdU16 s) h))
  · exact exec_prim_raises rfl rfl hr (congrArg some (tickRdU32_short (s := beginStage .prim .rdU32 .rdU32 s) h))
  · exact exec_prim_raises (exec_rdText_legal ⟨hlow, hhigh⟩ s) rfl hr
      (congrArg some (tickRdText_short (s := beginStage .prim (.rdText n) (.rdText n) s) h))

end Sys2Proof.Machine

namespace Sys2Proof.Machine

/-! The primitives and the milestones (R110, R259): by micro-step, by drained command, by acceptance. -/

/-- The six milestones are the same (R25). -/
def KeepsMilestones (s t : State) : Prop := ∀ m : Milestone, m.isSet t = m.isSet s

theorem KeepsMilestones.rfl {s : State} : KeepsMilestones s s := fun _ => Eq.refl _

theorem KeepsMilestones.trans {s t u : State} (h : KeepsMilestones s t) (k : KeepsMilestones t u) :
    KeepsMilestones s u := fun m => (k m).trans (h m)

/-- The flags of the state are what `isSet` reads. -/
theorem KeepsMilestones.of_flags {s t : State} (hhv : t.hv = s.hv := by rfl) (hsv : t.sv = s.sv := by rfl)
    (htv : t.tv = s.tv := by rfl) (hcv : t.cv = s.cv := by rfl) (hc1 : t.c1 = s.c1 := by rfl)
    (hxd : t.xd = s.xd := by rfl) : KeepsMilestones s t
  | .hv => hhv
  | .sv => hsv
  | .tv => htv
  | .cv => hcv
  | .c1 => hc1
  | .xd => hxd

theorem KeepsMilestones.flags {s t : State} (h : KeepsMilestones s t) :
    t.hv = s.hv ∧ t.sv = s.sv ∧ t.tv = s.tv ∧ t.cv = s.cv ∧ t.c1 = s.c1 ∧ t.xd = s.xd :=
  ⟨h .hv, h .sv, h .tv, h .cv, h .c1, h .xd⟩

theorem closeIfOpen_keepsMilestones (s : State) : KeepsMilestones s (closeIfOpen s) := by
  unfold closeIfOpen
  split <;> exact .of_flags

theorem releaseIfHeld_keepsMilestones (s : State) : KeepsMilestones s (releaseIfHeld s) := by
  unfold releaseIfHeld
  split <;> exact .of_flags

/-- The stages a primitive passes through: its one micro-step, and the entry of the error it may raise. -/
def Stage.ofPrimitive : Stage → Bool
  | .ckReset | .ckUpdate _ | .seek | .rdU16 | .rdU32 | .rdText _ | .raising _ => true
  | _ => false

/-- The milestones are the same, and the command in flight, if one is, stands in a primitive's stage. -/
structure PrimitiveFrame (s t : State) : Prop where
  milestones : KeepsMilestones s t
  stage : ∀ f, t.flight = some f → f.stage.ofPrimitive = true

theorem complete_primitiveFrame {s t : State} (h : KeepsMilestones s t) : PrimitiveFrame s (complete t) :=
  ⟨h.trans .of_flags, fun _ hf => by cases hf⟩

theorem raise_primitiveFrame (c : Instr) (e : ErrInfo) (s : State) : PrimitiveFrame s (raise c e s) :=
  ⟨.of_flags, fun _ hf => by cases hf; rfl⟩

theorem tickRdU16_primitiveFrame (c : Instr) (s : State) : PrimitiveFrame s (tickRdU16 c s) := by
  by_cases h : s.cur.toNat + 2 ≤ s.len.toNat
  · rw [tickRdU16_reads h]
    exact complete_primitiveFrame .of_flags
  · rw [tickRdU16_short (by omega)]
    exact raise_primitiveFrame c _ s

theorem tickRdU32_primitiveFrame (c : Instr) (s : State) : PrimitiveFrame s (tickRdU32 c s) := by
  by_cases h : s.cur.toNat + 4 ≤ s.len.toNat
  · rw [tickRdU32_reads h]
    exact complete_primitiveFrame .of_flags
  · rw [tickRdU32_short (by omega)]
    exact raise_primitiveFrame c _ s

theorem tickRdText_primitiveFrame (c : Instr) (n : Nat) (s : State) : PrimitiveFrame s (tickRdText c n s) := by
  by_cases h : s.cur.toNat + 2 * n ≤ s.len.toNat
  · rw [tickRdText_reads h]
    exact complete_primitiveFrame .of_flags
  · rw [tickRdText_short (by omega)]
    exact raise_primitiveFrame c _ s

theorem errorStep_keepsMilestones (e : ErrInfo) (s : State) : KeepsMilestones s (errorStep e s) := by
  unfold errorStep
  split
  · exact closeIfOpen_keepsMilestones s
  · split
    · exact releaseIfHeld_keepsMilestones s
    · exact .of_flags

/-- A micro-step of the error entry: the entry goes on, or is over (R236). -/
theorem errorStep_primitiveFrame {e : ErrInfo} {s : State}
    (hstage : ∀ f, s.flight = some f → f.stage.ofPrimitive = true) : PrimitiveFrame s (errorStep e s) := by
  refine ⟨errorStep_keepsMilestones e s, fun f hf => ?_⟩
  obtain ⟨_, _, _, hgoes | hover⟩ := errorStep_header e s
  · exact hstage f (hgoes.symm.trans hf)
  · cases hover.symm.trans hf

/-- No micro-step of a primitive touches a milestone, and the primitive stays one (R110). -/
theorem stageTick_primitiveFrame {f : Flight} {s t : State} (hf : s.flight = some f)
    (hprim : f.stage.ofPrimitive = true) (h : stageTick f s = some t) : PrimitiveFrame s t := by
  obtain ⟨c, st⟩ := f
  cases st with
  | ckReset | ckUpdate _ | seek => cases h; exact complete_primitiveFrame .of_flags
  | rdU16 => cases h; exact tickRdU16_primitiveFrame c s
  | rdU32 => cases h; exact tickRdU32_primitiveFrame c s
  | rdText n => cases h; exact tickRdText_primitiveFrame c n.toNat s
  | raising e =>
    cases h
    exact errorStep_primitiveFrame fun g hg => by cases hf.symm.trans hg; rfl
  | _ => cases hprim

/-- The primitive's part of a state that no INIT waits in. -/
structure PrimitiveRun (s t : State) : Prop extends PrimitiveFrame s t where
  noInit : t.initPending = false

theorem engineTick_primitiveRun {s t u : State} (h : PrimitiveRun s t) (ht : engineTick t = some u) :
    PrimitiveRun s u := by
  obtain ⟨f, hf, ⟨v, hv, hframe, ⟨_, rfl⟩ | ⟨hinit, _⟩⟩ | ⟨_, _, rfl⟩⟩ := engineTick_cases ht
  · have hprim := stageTick_primitiveFrame hf (h.stage f hf) hv
    exact ⟨⟨h.milestones.trans (hprim.milestones.trans .of_flags), hprim.stage⟩, hframe.initPending.trans h.noInit⟩
  · exact absurd hinit (by simp [h.noInit])
  · exact ⟨⟨h.milestones.trans .of_flags, h.stage⟩, h.noInit⟩

/-- A primitive just started, run to its end or left in flight. -/
theorem settle_primitiveRun {s t : State} (h : PrimitiveRun s t) : PrimitiveRun s (settle t) := by
  unfold settle
  split
  · exact drain_induct (fun _ _ => engineTick_primitiveRun) _ h
  · exact h

theorem beginStage_primitiveRun {st : Stage} (c : Instr) {s : State} (hst : st.ofPrimitive = true)
    (hinit : s.initPending = false) : PrimitiveRun s (beginStage .prim c st s) :=
  ⟨⟨.of_flags, fun _ hf => by cases hf; exact hst⟩, hinit⟩

/-- Acceptance of a primitive, in every phase (R205). -/
theorem accept_prim_keepsMilestones {st : Stage} (c : Instr) {s : State} (hst : st.ofPrimitive = true)
    (hinit : s.initPending = false) : KeepsMilestones s (accept c (beginStage .prim c st) s) := by
  obtain ⟨_, ht⟩ | ⟨_, ht⟩ | ⟨m, _, _, ht⟩ | ⟨_, _, ht⟩ := accept_cases c (beginStage .prim c st) s <;> rw [ht]
  · exact .rfl
  · exact .of_flags
  · exact .of_flags
  · exact (settle_primitiveRun (beginStage_primitiveRun c hst hinit)).milestones

theorem acceptIllegal_keepsMilestones (w : Word32) (s : State) : KeepsMilestones s (acceptIllegal w s) := by
  obtain ⟨_, ht⟩ | ⟨_, ht⟩ | ⟨_, ht⟩ := acceptIllegal_cases w s <;> rw [ht]
  · exact .rfl
  · exact .of_flags
  · exact .of_flags

/-- The six commands of R131, R132 and R110 to R114. -/
def IsPrimitive (i : Instr) : Prop :=
  i = .ckReset ∨ (∃ b, i = .ckUpdate b) ∨ i = .seek ∨ i = .rdU16 ∨ i = .rdU32 ∨ ∃ n, i = .rdText n

/-- A primitive is accepted with its one stage, or, as RD_TEXT with an illegal count, is an illegal word (R91, R205). -/
theorem exec_primitive {i : Instr} (h : IsPrimitive i) (s : State) :
    (∃ st : Stage, st.ofPrimitive = true ∧ exec i s = .next (accept i (beginStage .prim i st) s))
      ∨ exec i s = .next (acceptIllegal (encode i) s) := by
  obtain rfl | ⟨b, rfl⟩ | rfl | rfl | rfl | ⟨n, rfl⟩ := h
  · exact .inl ⟨.ckReset, rfl, rfl⟩
  · exact .inl ⟨.ckUpdate b, rfl, rfl⟩
  · exact .inl ⟨.seek, rfl, rfl⟩
  · exact .inl ⟨.rdU16, rfl, rfl⟩
  · exact .inl ⟨.rdU32, rfl, rfl⟩
  · by_cases hn : 1 ≤ n.toNat ∧ n.toNat ≤ 256
    · exact .inl ⟨.rdText n, rfl, exec_rdText_legal hn s⟩
    · exact .inr (exec_rdText_illegal hn s)

/-- Settles O56: a primitive is accepted, or turned away as an illegal word, and neither touches a milestone. -/
theorem primitivesLeaveTheMilestones : Obligations.PrimitivesLeaveTheMilestones := by
  intro i s t hi hinit h
  obtain ⟨st, hst, hexec⟩ | hexec := exec_primitive hi s
  · cases hexec.symm.trans h
    exact (accept_prim_keepsMilestones i hst hinit).flags
  · cases hexec.symm.trans h
    exact (acceptIllegal_keepsMilestones _ s).flags

end Sys2Proof.Machine

namespace Sys2Proof.Machine

/-! The checksum accumulator (R130-R140): FOLD, the two commands' meanings, and a host that polls each to its end. -/

/-! FOLD (R11, R139) -/

theorem fold_cons (c : BitVec 16) (b : Byte) (B : List Byte) : fold c (b :: B) = fold (Config.ckStep c b) B := rfl

theorem fold_append (c : BitVec 16) (A B : List Byte) : fold c (A ++ B) = fold (fold c A) B := List.foldl_append

theorem fold_flatten (c : BitVec 16) (pieces : List (List Byte)) : fold c pieces.flatten = pieces.foldl fold c := by
  induction pieces generalizing c with
  | nil => rfl
  | cons A pieces ih => rw [List.flatten_cons, fold_append, ih, List.foldl_cons]

/-! The meanings, in IDLE whatever handles are open -/

/-- IDLE with nothing left of an earlier command, which the accumulator's commands need and keep; unlike `Ready` it says
nothing of an open destination or of what the host does next. -/
structure AtRest (s : State) : Prop where
  idle : s.phase = .idle
  noFlight : s.flight = none
  calm : Calm s

theorem Ready.atRest {s : State} (h : Ready s) : AtRest s := ⟨h.idle, h.noFlight, h.calm⟩

theorem AtRest.update {s : State} (h : AtRest s) (acts : List HostAct) (v : BitVec 16) :
    AtRest { s with inbox := acts, ck := v } := ⟨h.idle, h.noFlight, h.calm⟩

/-- A command whose one micro-step writes v to CK and completes, under a host that only waits, writes CK alone. -/
theorem exec_writes_ck {c : Instr} {st : Stage} {s : State} {v : BitVec 16} (h : AtRest s) (hquiet : hostQuiet s = true)
    (hexec : exec c s = .next (accept c (beginStage .prim c st) s)) (hpre : precondition c = none)
    (htick : stageTick ⟨c, st⟩ (beginStage .prim c st s) = some (complete (beginStage .prim c st { s with ck := v }))) :
    exec c s = .next { s with ck := v } := by
  rw [complete_beginStage (t := { s with ck := v }) h.idle h.noFlight] at htick
  have hdrain : drain drainBound (beginStage .prim c st s) = { s with ck := v } :=
    (Ticks.stage (s := beginStage .prim c st s) h.calm rfl htick).drain_to (engineTick_noFlight h.noFlight) (by decide)
  rw [hexec, accept_idle h.idle (by rw [hpre]; rfl), settle_quiet (s := beginStage .prim c st s) hquiet, hdrain]

theorem exec_ckReset {s : State} (h : AtRest s) (hquiet : hostQuiet s = true) :
    exec .ckReset s = .next { s with ck := Config.ckSeed } :=
  exec_writes_ck h hquiet rfl rfl rfl

theorem exec_ckUpdate {s : State} (b : Byte) (h : AtRest s) (hquiet : hostQuiet s = true) :
    exec (.ckUpdate b) s = .next { s with ck := Config.ckStep s.ck b } :=
  exec_writes_ck h hquiet rfl rfl rfl

/-! A command written and polled to its end (R92) -/

/-- What the host does to give command c and wait for its end. -/
def writeAndPoll (c : Instr) : List HostAct := [.write 0x000 (encode c), .wait]

theorem step_write_command {c : Instr} {s : State} {acts : List HostAct} (hwf : c.wf = true)
    (hin : s.inbox = .write 0x000 (encode c) :: acts) : step s = exec c { s with inbox := acts } := by
  simp only [step, hin, commandWord?, if_true, decodeOfEncode c hwf]

/-- A poll that finds BUSY = 0 is over. -/
theorem step_wait_idle {s : State} {acts : List HostAct} (hidle : s.phase = .idle) (hin : s.inbox = .wait :: acts) :
    step s = .next { s with inbox := acts } := by
  have hbusy : s.busy = false := by rw [State.busy, hidle]; rfl
  simp only [step_act hin rfl, hostStep, hbusy, Bool.false_eq_true, if_false]

/-- A command that writes CK alone, written and polled, takes two steps. -/
theorem run_writeAndPoll {c : Instr} {s : State} {v : BitVec 16} {acts : List HostAct} (hwf : c.wf = true)
    (h : AtRest s) (hin : s.inbox = writeAndPoll c ++ acts)
    (hexec : exec c { s with inbox := .wait :: acts } = .next { s with inbox := .wait :: acts, ck := v }) (k : Nat) :
    Host.Core.run Sys2Proof.core (k + 2) s = Host.Core.run Sys2Proof.core k { s with inbox := acts, ck := v } := by
  have hwrite : Sys2Proof.core.step s = .next { s with inbox := .wait :: acts, ck := v } :=
    (step_write_command hwf hin).trans hexec
  have hpoll : step { s with inbox := .wait :: acts, ck := v } = .next { s with inbox := acts, ck := v } :=
    step_wait_idle h.idle rfl
  exact (run_succ hwrite).trans (run_succ hpoll)

theorem run_ckReset {s : State} {acts : List HostAct} (h : AtRest s) (hin : s.inbox = writeAndPoll .ckReset ++ acts)
    (k : Nat) : Host.Core.run Sys2Proof.core (k + 2) s
      = Host.Core.run Sys2Proof.core k { s with inbox := acts, ck := Config.ckSeed } :=
  run_writeAndPoll rfl h hin (exec_ckReset (h.update (.wait :: acts) s.ck) rfl) k

theorem run_ckUpdate {s : State} {acts : List HostAct} (b : Byte) (h : AtRest s)
    (hin : s.inbox = writeAndPoll (.ckUpdate b) ++ acts) (k : Nat) : Host.Core.run Sys2Proof.core (k + 2) s
      = Host.Core.run Sys2Proof.core k { s with inbox := acts, ck := Config.ckStep s.ck b } :=
  run_writeAndPoll rfl h hin (exec_ckUpdate b (h.update (.wait :: acts) s.ck) rfl) k

/-- CK_UPDATE for each byte of B, each polled to its end, folds B into CK. -/
theorem run_updates (rest : List HostAct) : ∀ (B : List Byte) {s : State}, AtRest s →
    s.inbox = B.flatMap (fun b => writeAndPoll (.ckUpdate b)) ++ rest →
    Host.Core.run Sys2Proof.core (2 * B.length) s = .next { s with inbox := rest, ck := fold s.ck B }
  | [], s, _, hin => by
    cases s
    cases hin
    rfl
  | b :: B, s, h, hin => by
    rw [List.flatMap_cons, List.append_assoc] at hin
    rw [List.length_cons, Nat.mul_succ, run_ckUpdate b h hin, run_updates rest B (h.update _ _) rfl, fold_cons]

/-! The accumulator's statements -/

/-- Settles O19: CK_RESET's micro-step writes CK alone. -/
theorem ckResetLoadsTheSeed : Obligations.CkResetLoadsTheSeed := fun _ hr => exec_ckReset hr.atRest hr.quiet

/-- Settles O20: CK_UPDATE's micro-step writes CK alone. -/
theorem ckUpdateFoldsOneByte : Obligations.CkUpdateFoldsOneByte := fun _ b hr => exec_ckUpdate b hr.atRest hr.quiet

/-- Settles O22: FOLD is a left fold, so it passes through appended pieces. -/
theorem foldIgnoresChunking : Obligations.FoldIgnoresChunking := ⟨fold_append, fold_flatten⟩

/-- Settles O21: CK_RESET takes the first two steps and leaves the seed; the updates fold the bytes into it. -/
theorem commandSequenceComputesCksum : Obligations.CommandSequenceComputesCksum := by
  refine ⟨fun _ => rfl, fold_cons, fun _ => rfl, fun s B rest hidle hfree hawait hinit hin => ?_⟩
  have h : AtRest s := ⟨hidle, hfree, hawait, hinit⟩
  have hin : s.inbox = writeAndPoll .ckReset ++ (B.flatMap (fun b => writeAndPoll (.ckUpdate b)) ++ rest) := hin
  rw [Nat.mul_succ, run_ckReset h hin, run_updates rest B (h.update _ _) rfl]
  rfl

end Sys2Proof.Machine

namespace Sys2Proof.Machine

/-! The record decoders' meanings (R145-R155): HDR_DECODE's one read, and PT_DECODE over the good records of a table to
its end or to the first bad one. -/

/-! HDR_DECODE (R146) -/

/-- What HDR_BODY's read of a whole header leaves (R146, R147). -/
def headerRead (s : State) : State :=
  { clearMilestones s with hv := true, himg := s.src.read 0 2124, cur := 2124#64, held := true }

/-- A container that holds a header. -/
theorem exec_hdrDecode_reads {s : State} (hr : Ready s) (h : 2124 ≤ s.len.toNat) :
    exec .hdrDecode s = .next (headerRead s) := by
  have htick : stageTick ⟨.hdrDecode, .hdr⟩ (beginHdr .hdrDecode s) =
      some (complete (beginStage .hdr .hdrDecode .hdr (headerRead s))) := by
    simp only [headerRead, beginStage]
    exact hdr_tick .hdrDecode (beginHdr .hdrDecode s) h
  have hread := Ticks.stage (s := beginHdr .hdrDecode s) hr.calm rfl htick
  rw [complete_beginStage (t := headerRead s) hr.idle hr.noFlight] at hread
  exact congrArg _ (accept_to hr rfl (beginHdr_untouched _ s) hread hr.noFlight (by decide))

/-- A container too short for a header, of which nothing is read. -/
theorem exec_hdrDecode_short {s : State} (hr : Ready s) (h : s.len.toNat < 2124) :
    exec .hdrDecode s = .next (failedWith ⟨.shortHeader, 0#32, 2124#64, s.len, 0#64⟩ (clearMilestones s)) :=
  congrArg _ (accept_to_raise hr rfl (beginHdr_untouched _ s)
    (.stage (s := beginHdr .hdrDecode s) hr.calm rfl (hdr_short .hdrDecode (beginHdr .hdrDecode s) h))
    (beginHdr_untouched _ s) (by decide))

/-- Settles O31: the one micro-step of HDR_BODY reads the header, or raises. -/
theorem hdrDecodeReadsTheHeader : Obligations.HdrDecodeReadsTheHeader := fun _ hr =>
  ⟨exec_hdrDecode_reads hr, exec_hdrDecode_short hr⟩

/-! The micro-steps of a table (R150, R152, R153) -/

section Ticks

variable {c : Instr} {i : Nat} {s : State}

theorem tickTabLen_short (hi : i < (hdrPartitionCount s.himg).toNat) (h : s.len.toNat < recordAddr s i + 4) :
    tickTabLen c i s = raise c ⟨.srcShort, indexWord i, 4#64, BitVec.ofNat 64 (s.len.toNat - recordAddr s i),
      BitVec.ofNat 64 (recordAddr s i)⟩ s := by
  simp only [tickTabLen, if_pos hi, memRead_short h]

/-- A length field that is not 2580 is an error before the body is read (R153). -/
theorem tickTabLen_badLength (hi : i < (hdrPartitionCount s.himg).toNat) (h : recordAddr s i + 4 ≤ s.len.toNat)
    (hw : le32 (s.src.read (recordAddr s i) 4) 0 ≠ 2580#32) :
    tickTabLen c i s = raise c ⟨.badReclen, indexWord i, 2580#64,
        (le32 (s.src.read (recordAddr s i) 4) 0).zeroExtend 64, 0#64⟩
      { s with cur := BitVec.ofNat 64 (recordAddr s i + 4), held := true } := by
  simp only [tickTabLen, if_pos hi, memRead_ok h, if_pos hw]
  rfl

theorem tickTabLen_goodLength (hi : i < (hdrPartitionCount s.himg).toNat) (h : recordAddr s i + 4 ≤ s.len.toNat)
    (hw : le32 (s.src.read (recordAddr s i) 4) 0 = 2580#32) :
    tickTabLen c i s = goTo c (.tabBody i (s.src.read (recordAddr s i) 4))
      { s with cur := BitVec.ofNat 64 (recordAddr s i + 4), held := true } := by
  simp only [tickTabLen, if_pos hi, memRead_ok h, if_neg (not_not_intro hw)]
  rfl

theorem tickTabLen_end (h : (hdrPartitionCount s.himg).toNat ≤ i) :
    tickTabLen c i s = afterTable c { s with tv := true } := by
  simp only [tickTabLen, if_neg (Nat.not_lt.2 h)]

theorem tickTabBody_short {W : List Byte} (h : s.len.toNat < recordAddr s i + 2580) :
    tickTabBody c i W s = raise c ⟨.srcShort, indexWord i, 2576#64,
      BitVec.ofNat 64 (s.len.toNat - (recordAddr s i + 4)), BitVec.ofNat 64 (recordAddr s i + 4)⟩ s := by
  simp only [tickTabBody, memRead_short (show s.len.toNat < recordAddr s i + 4 + 2576 from h)]

end Ticks

/-! PT_DECODE to record n -/

/-- What PT_BODY has written when it stands before record n, the records before it all good (R150, R155). -/
def tableRead (n : Nat) (s : State) : State :=
  { s with
    tv := false, pt := sourceTable s n, cur := BitVec.ofNat 64 (recordAddr s n), held := s.held || decide (0 < n) }

/-- What it has written when record n's length word is read too. -/
def lengthRead (n : Nat) (s : State) : State :=
  { tableRead n s with cur := BitVec.ofNat 64 (recordAddr s n + 4), held := true }

theorem tableRead_untouched (n : Nat) (s : State) : Untouched s (tableRead n s) := by constructor <;> exact Eq.refl _

theorem lengthRead_untouched (n : Nat) (s : State) : Untouched s (lengthRead n s) := by constructor <;> exact Eq.refl _

/-- PT_BODY standing before record n. -/
def beforeRecord (n : Nat) (s : State) : State := beginStage .table .ptDecode (.tabLen n) (tableRead n s)

/-- PT_BODY standing before record n's body. -/
def beforeBody (n : Nat) (s : State) : State :=
  beginStage .table .ptDecode (.tabBody n (s.src.read (recordAddr s n) 4)) (lengthRead n s)

section Decode

variable {s : State} {n : Nat}

/-- The good records before record n take two micro-steps each. -/
theorem ticks_beforeRecord (hr : Ready s) (hn : n ≤ (hdrPartitionCount s.himg).toNat)
    (hgood : ∀ k, k < n → goodRecord s k) : Ticks (2 * n) (beginTable .ptDecode s) (beforeRecord n s) :=
  table_prefix_ticks .ptDecode n s _ hr.calm rfl hn hgood

/-- A micro-step of the table from before record n. -/
theorem tick_beforeRecord {t : State} (hr : Ready s) (ht : tickTabLen .ptDecode n (beforeRecord n s) = t) :
    Ticks 1 (beforeRecord n s) t :=
  .stage (s := beforeRecord n s) hr.calm rfl (congrArg some ht)

/-- With SV = 1 PT_DECODE lacks no milestone (R206). -/
theorem missing_ptDecode (hsv : s.sv = true) : missing (precondition .ptDecode) s = none := by
  simp only [precondition, missing, Milestone.isSet, hsv, if_true]

/-- PT_DECODE ends in the error that the micro-steps after the good records raise, with the registers they leave. -/
theorem exec_ptDecode_raises {e : ErrInfo} {st : Stage} {r : State} {j : Nat} (hr : Ready s) (hsv : s.sv = true)
    (hn : n ≤ (hdrPartitionCount s.himg).toNat) (hgood : ∀ k, k < n → goodRecord s k) (hj : j ≤ 2)
    (hnext : Ticks j (beforeRecord n s) (raise .ptDecode e (beginStage .table .ptDecode st r))) (hframe : Untouched s r) :
    exec .ptDecode s = .next (failedWith e r) := by
  have hcount := (hdrPartitionCount s.himg).isLt
  exact congrArg _ (accept_to_raise hr (missing_ptDecode hsv) (beginTable_untouched _ s)
    ((ticks_beforeRecord hr hn hgood).trans hnext) (hframe.trans (beginStage_untouched _ _ _ r))
    (by simp only [drainBound]; omega))

/-- A length word past L (R152). -/
theorem exec_ptDecode_lengthShort (hr : Ready s) (hsv : s.sv = true) (hn : n < (hdrPartitionCount s.himg).toNat)
    (hgood : ∀ k, k < n → goodRecord s k) (h : s.len.toNat < recordAddr s n + 4) :
    exec .ptDecode s = .next (failedWith ⟨.srcShort, indexWord n, 4#64,
      BitVec.ofNat 64 (s.len.toNat - recordAddr s n), BitVec.ofNat 64 (recordAddr s n)⟩ (tableRead n s)) :=
  exec_ptDecode_raises (st := .tabLen n) hr hsv hn.le hgood (by decide)
    (tick_beforeRecord hr (tickTabLen_short (s := beforeRecord n s) hn h)) (tableRead_untouched n s)

/-- A length field that is not 2580, whatever follows it (R153). -/
theorem exec_ptDecode_badLength (hr : Ready s) (hsv : s.sv = true) (hn : n < (hdrPartitionCount s.himg).toNat)
    (hgood : ∀ k, k < n → goodRecord s k) (h : recordAddr s n + 4 ≤ s.len.toNat)
    (hw : le32 (s.src.read (recordAddr s n) 4) 0 ≠ 2580#32) :
    exec .ptDecode s = .next (failedWith ⟨.badReclen, indexWord n, 2580#64,
      (le32 (s.src.read (recordAddr s n) 4) 0).zeroExtend 64, 0#64⟩ (lengthRead n s)) :=
  exec_ptDecode_raises (st := .tabLen n) hr hsv hn.le hgood (by decide)
    (tick_beforeRecord hr (tickTabLen_badLength (s := beforeRecord n s) hn h hw)) (lengthRead_untouched n s)

/-- A body past L, after a good length field (R152). -/
theorem exec_ptDecode_bodyShort (hr : Ready s) (hsv : s.sv = true) (hn : n < (hdrPartitionCount s.himg).toNat)
    (hgood : ∀ k, k < n → goodRecord s k) (h : recordAddr s n + 4 ≤ s.len.toNat)
    (hw : le32 (s.src.read (recordAddr s n) 4) 0 = 2580#32) (hbody : s.len.toNat < recordAddr s n + 2580) :
    exec .ptDecode s = .next (failedWith ⟨.srcShort, indexWord n, 2576#64,
      BitVec.ofNat 64 (s.len.toNat - (recordAddr s n + 4)), BitVec.ofNat 64 (recordAddr s n + 4)⟩
      (lengthRead n s)) := by
  have hlength : Ticks 1 (beforeRecord n s) (beforeBody n s) :=
    tick_beforeRecord hr (tickTabLen_goodLength (s := beforeRecord n s) hn h hw)
  have hraise := Ticks.stage (s := beforeBody n s) hr.calm rfl
    (congrArg some (tickTabBody_short (s := beforeBody n s) hbody))
  exact exec_ptDecode_raises hr hsv hn.le hgood (Nat.le_refl 2) (hlength.trans hraise) (lengthRead_untouched n s)

/-- Every record good (R150). -/
theorem exec_ptDecode_good (hr : Ready s) (hsv : s.sv = true) (hn : n = (hdrPartitionCount s.himg).toNat)
    (hgood : ∀ k, k < n → goodRecord s k) : exec .ptDecode s = .next { tableRead n s with tv := true } := by
  have hcount := (hdrPartitionCount s.himg).isLt
  have hlast : Ticks 1 (beforeRecord n s) (complete { beforeRecord n s with tv := true }) :=
    tick_beforeRecord hr (tickTabLen_end (s := beforeRecord n s) hn.ge)
  have hend : complete { beforeRecord n s with tv := true } = { tableRead n s with tv := true } :=
    complete_beginStage (t := { tableRead n s with tv := true }) hr.idle hr.noFlight
  rw [hend] at hlast
  exact congrArg _ (accept_to hr (missing_ptDecode hsv) (beginTable_untouched _ s)
    ((ticks_beforeRecord hr hn.le hgood).trans hlast) hr.noFlight (by simp only [drainBound]; omega))

end Decode

/-! PT_DECODE's statements -/

/-- Settles O34: the table's good records are read to the last, and the loop ends. -/
theorem ptDecodeStoresEveryRecord : Obligations.PtDecodeStoresEveryRecord := fun _ hr hsv hgood =>
  exec_ptDecode_good hr hsv rfl hgood

/-- Settles O35: the records before the first bad one are read, and then one of three micro-steps raises. -/
theorem ptDecodeStopsAtTheFirstBadRecord : Obligations.PtDecodeStopsAtTheFirstBadRecord :=
  fun _ _ hr hsv hi hgood =>
    ⟨exec_ptDecode_lengthShort hr hsv hi hgood, exec_ptDecode_badLength hr hsv hi hgood,
      exec_ptDecode_bodyShort hr hsv hi hgood⟩

/-- A table of no records reads nothing, and its end is where it starts (R151). -/
theorem tableRead_zero (s : State) : tableRead 0 s =
    { s with tv := false, pt := [], cur := (hdrPartitionsListStart s.himg).zeroExtend 64 } := by
  simp only [tableRead, recordAddr, Nat.mul_zero, Nat.add_zero, Nat.lt_irrefl, decide_false, Bool.or_false,
    BitVec.ofNat_toNat]
  rfl

/-- Settles O36: with no record the loop ends at once, and every record of the table is good. -/
theorem ptDecodeOfNoRecords : Obligations.PtDecodeOfNoRecords := by
  intro s hr hsv hzero
  rw [exec_ptDecode_good hr hsv (n := 0) (by rw [hzero]; rfl) (fun _ h => absurd h (Nat.not_lt_zero _)),
    tableRead_zero]

end Sys2Proof.Machine

namespace Sys2Proof.Machine

/-! Where HIMG changes (R37, R147): by micro-step, by drained command, by acceptance, by step. -/

/-- A pending INIT was performed, and HIMG holds its reset value (R48, R216). -/
def HimgReset (s t : State) : Prop := s.initPending = true ∧ t.himg = zeroBytes 2124

/-- HDR_BODY's read of a whole header was performed (R147). -/
def HimgRead (s t : State) : Prop := t.himg = s.src.read 0 2124 ∧ t.hv = true ∧ 2124 ≤ s.len.toNat

/-- HIMG and HV are as they were. -/
def HimgKept (s t : State) : Prop := t.himg = s.himg ∧ t.hv = s.hv

/-- The command in flight stands at HDR_BODY's read. -/
def AtHeaderRead (s : State) : Prop := ∃ c, s.flight = some ⟨c, .hdr⟩

/-- What can become of HIMG between two states of a command. -/
def HimgOutcome (s t : State) : Prop := HimgReset s t ∨ HimgKept s t ∨ AtHeaderRead s ∧ HimgRead s t

theorem HimgKept.rfl {s : State} : HimgKept s s := ⟨Eq.refl _, Eq.refl _⟩

theorem HimgKept.trans {s t u : State} (h : HimgKept s t) (k : HimgKept t u) : HimgKept s u :=
  ⟨k.1.trans h.1, k.2.trans h.2⟩

theorem HimgRead.keep {s t u : State} (h : HimgRead s t) (k : HimgKept t u) : HimgRead s u :=
  ⟨k.1.trans h.1, k.2.trans h.2.1, h.2.2⟩

theorem not_atHeaderRead {s : State} (h : ∀ g, s.flight = some g → g.stage ≠ .hdr) : ¬ AtHeaderRead s :=
  fun ⟨_, hf⟩ => h _ hf rfl

/-! By micro-step and by drained command -/

/-- After a micro-step either an INIT is done and nothing is in flight, or HDR_BODY's read is past and HIMG is as that
read, if it was the micro-step, left it. -/
theorem engineTick_himg {s t : State} (h : engineTick s = some t) :
    (HimgReset s t ∧ t.flight = none)
    ∨ (t.initPending = s.initPending ∧ ¬ AtHeaderRead t ∧ (HimgKept s t ∨ AtHeaderRead s ∧ HimgRead s t)) := by
  obtain ⟨⟨c, st⟩, hf, ⟨u, hu, hframe, ⟨_, rfl⟩ | ⟨hinit, rfl⟩⟩ | ⟨hnone, _, rfl⟩⟩ := engineTick_cases h
  · obtain ⟨hpast, hkept | ⟨rfl, hread⟩, _⟩ := stageTick_header hf hu
    · exact .inr ⟨hframe.initPending, not_atHeaderRead hpast, .inl hkept⟩
    · exact .inr ⟨hframe.initPending, not_atHeaderRead hpast, .inr ⟨⟨c, hf⟩, hread⟩⟩
  · exact .inl ⟨⟨hinit, (performInit_values _).header⟩, (performInit_values _).continuation.1⟩
  · refine .inr ⟨rfl, fun ⟨d, hd⟩ => ?_, .inl .rfl⟩
    cases hf.symm.trans hd
    cases hnone

theorem engineTick_himgOutcome {s t : State} (h : engineTick s = some t) : HimgOutcome s t := by
  obtain ⟨hreset, _⟩ | ⟨_, _, hstage⟩ := engineTick_himg h
  · exact .inl hreset
  · exact .inr hstage

/-- Past HDR_BODY's read, or before any, only a pending INIT changes HIMG. -/
theorem drain_himg_past {s : State} (n : Nat) (h : ¬ AtHeaderRead s) :
    HimgReset s (drain n s) ∨ HimgKept s (drain n s) := by
  have hrun := drain_induct
    (P := fun t => (HimgReset s t ∧ t.flight = none)
      ∨ (t.initPending = s.initPending ∧ ¬ AtHeaderRead t ∧ HimgKept s t))
    (fun t u hP hu => ?_) n (.inr ⟨rfl, h, .rfl⟩)
  · exact hrun.imp And.left fun hP => hP.2.2
  · obtain ⟨_, hfree⟩ | ⟨hpend, hpast, hkept⟩ := hP
    · cases (engineTick_noFlight hfree).symm.trans hu
    · obtain ⟨⟨hinit, hzero⟩, hfree⟩ | ⟨hpend', hpast', hkept' | ⟨hat, _⟩⟩ := engineTick_himg hu
      · exact .inl ⟨⟨hpend.symm.trans hinit, hzero⟩, hfree⟩
      · exact .inr ⟨hpend'.trans hpend, hpast', hkept.trans hkept'⟩
      · exact absurd hat hpast

/-- Only the first micro-step of a drained command can be HDR_BODY's read. -/
theorem drain_himgOutcome : ∀ (n : Nat) (s : State), HimgOutcome s (drain n s)
  | 0, _ => .inr (.inl .rfl)
  | n + 1, s => by
    cases ht : engineTick s with
    | none => rw [drain_none ht]; exact .inr (.inl .rfl)
    | some t =>
      rw [drain_some ht]
      obtain ⟨hreset, hfree⟩ | ⟨hpend, hpast, hstage⟩ := engineTick_himg ht
      · rw [drain_none (engineTick_noFlight hfree)]
        exact .inl hreset
      · obtain ⟨hinit, hzero⟩ | hkept := drain_himg_past n hpast
        · exact .inl ⟨hpend.symm.trans hinit, hzero⟩
        · exact .inr (hstage.imp (·.trans hkept) fun ⟨hat, hread⟩ => ⟨hat, hread.keep hkept⟩)

theorem settle_himgOutcome (s : State) : HimgOutcome s (settle s) := by
  unfold settle
  split
  · exact drain_himgOutcome _ s
  · exact .inr (.inl .rfl)

/-! By command -/

/-- The commands whose first body is HDR_BODY (R146, R210). -/
def DecodesHeader (i : Instr) : Prop := i = .hdrDecode ∨ ∃ v, i = .run v

/-- A command other than INIT is accepted with HDR_BODY's start, or with one that leaves HIMG and does not stand at
HDR_BODY's read; or it is an illegal word. -/
theorem exec_starts {i : Instr} (hi : i ≠ .init) (s : State) :
    (DecodesHeader i ∧ exec i s = .next (accept i (beginHdr i) s))
    ∨ (∃ start : State → State, Untouched s (start s) ∧ KeepsHeader s (start s) ∧ exec i s = .next (accept i start s))
    ∨ exec i s = .next (acceptIllegal (encode i) s) := by
  have prim : ∀ st : Stage, st ≠ .hdr → exec i s = .next (accept i (beginStage .prim i st) s) →
      ∃ start : State → State, Untouched s (start s) ∧ KeepsHeader s (start s)
        ∧ exec i s = .next (accept i start s) :=
    fun _ hst he => ⟨_, beginStage_untouched _ _ _ s, beginStage_keepsHeader hst, he⟩
  cases i with
  | ckReset | ckUpdate _ | seek | rdU16 | rdU32 => exact .inr (.inl (prim _ Stage.noConfusion rfl))
  | rdText n =>
    by_cases hn : 1 ≤ n.toNat ∧ n.toNat ≤ 256
    · exact .inr (.inl (prim _ Stage.noConfusion (exec_rdText_legal hn s)))
    · exact .inr (.inr (exec_rdText_illegal hn s))
  | hdrDecode => exact .inl ⟨.inl rfl, rfl⟩
  | run v => exact .inl ⟨.inr ⟨v, rfl⟩, rfl⟩
  | valStruct => exact .inr (.inl ⟨_, beginStruct_untouched _ s, beginStruct_keepsHeader _ s, rfl⟩)
  | ptDecode => exact .inr (.inl ⟨_, beginTable_untouched _ s, beginTable_keepsHeader _ s, rfl⟩)
  | valCksum => exact .inr (.inl ⟨_, beginCksum_untouched _ s, beginCksum_keepsHeader _ s, rfl⟩)
  | extract => exact .inr (.inl ⟨_, beginExtract_untouched _ s, beginExtract_keepsHeader _ s, rfl⟩)
  | init => exact absurd rfl hi

/-- Acceptance leaves HIMG, or starts the command in IDLE and runs it. -/
theorem accept_himg (c : Instr) (start : State → State) (s : State) :
    (accept c start s).himg = s.himg ∨ s.phase = .idle ∧ HimgOutcome (start s) (accept c start s) := by
  obtain ⟨_, ht⟩ | ⟨_, ht⟩ | ⟨m, _, _, ht⟩ | ⟨hidle, _, ht⟩ := accept_cases c start s <;> rw [ht]
  · exact .inl rfl
  · exact .inl rfl
  · exact .inl rfl
  · exact .inr ⟨hidle, settle_himgOutcome _⟩

theorem acceptIllegal_himg (w : Word32) (s : State) : (acceptIllegal w s).himg = s.himg := by
  obtain ⟨_, ht⟩ | ⟨_, ht⟩ | ⟨_, ht⟩ := acceptIllegal_cases w s <;> rw [ht] <;> rfl

/-- What a start leaves alone is as it was before the start too. -/
theorem HimgReset.of_start {s r t : State} (h : HimgReset r t) (hframe : Untouched s r) : HimgReset s t :=
  ⟨hframe.initPending.symm.trans h.1, h.2⟩

theorem HimgRead.of_start {s r t : State} (h : HimgRead r t) (hframe : Untouched s r) : HimgRead s t := by
  rwa [HimgRead, hframe.src, hframe.len] at h

/-- A command other than INIT changes HIMG only when it starts with HDR_BODY in IDLE and reads a header, or when a
pending INIT ends it. -/
theorem exec_himg {i : Instr} {s t : State} (hi : i ≠ .init) (h : exec i s = .next t) :
    t.himg = s.himg ∨ HimgReset s t ∨ s.phase = .idle ∧ DecodesHeader i ∧ HimgRead s t := by
  obtain ⟨hdec, he⟩ | ⟨start, hframe, hheader, he⟩ | he := exec_starts hi s <;> cases he.symm.trans h
  · obtain hsame | ⟨hidle, hreset | ⟨hsame, _⟩ | ⟨_, hread⟩⟩ := accept_himg i (beginHdr i) s
    · exact .inl hsame
    · exact .inr (.inl (hreset.of_start (beginHdr_untouched i s)))
    · exact .inl hsame
    · exact .inr (.inr ⟨hidle, hdec, hread.of_start (beginHdr_untouched i s)⟩)
  · obtain hsame | ⟨_, hreset | ⟨hsame, _⟩ | ⟨hat, _⟩⟩ := accept_himg i start s
    · exact .inl hsame
    · exact .inr (.inl (hreset.of_start hframe))
    · exact .inl (hsame.trans hheader.himg)
    · exact absurd hat (not_atHeaderRead hheader.stage)
  · exact .inl (acceptIllegal_himg _ s)

theorem execInit_himg {s t : State} (h : exec .init s = .next t) : t.himg = s.himg ∨ t.himg = zeroBytes 2124 := by
  by_cases hawait : s.awaiting = true
  · cases (execInit_of_awaiting hawait).symm.trans h
    exact .inl rfl
  · cases (execInit_of_not_awaiting (Bool.eq_false_iff.2 hawait)).symm.trans h
    exact .inr (performInit_values s).header

/-! By step -/

theorem engineStep_himgOutcome {s t : State} (h : engineStep s = .next t) : HimgOutcome s t := by
  obtain ⟨u, hu, he⟩ | he | ⟨_, _, he⟩ := engineStep_cases s <;> cases he.symm.trans h
  · exact engineTick_himgOutcome hu
  · exact .inr (.inl .rfl)

theorem writeRegister_himg (off : Nat) (v : Word32) (s : State) : (writeRegister off v s).himg = s.himg := by
  unfold writeRegister
  split_ifs <;> rfl

theorem readRegister_himg (off : Nat) (s : State) : (readRegister off s).himg = s.himg := by
  unfold readRegister
  split
  · rfl
  · split_ifs <;> rfl

/-- An act other than a write to CMD changes HIMG only as hardware reset or by letting the engine perform a micro-step. -/
theorem hostStep_himg {act : HostAct} {rest : List HostAct} {s t : State} (h : hostStep act rest s = .next t) :
    t.himg = s.himg ∨ (act = .reset ∧ t.himg = zeroBytes 2124) ∨ HimgOutcome s t := by
  cases act with
  | write off v =>
    simp only [hostStep] at h
    split at h <;> cases h
    exact .inl (writeRegister_himg off v _)
  | read off =>
    simp only [hostStep] at h
    split at h <;> cases h
    exact .inl (readRegister_himg off _)
  | narrow off => cases h
  | tick => exact .inr (.inr (engineStep_himgOutcome (s := { s with inbox := rest }) h))
  | wait =>
    simp only [hostStep] at h
    split at h
    · exact .inr (.inr (engineStep_himgOutcome h))
    · cases h; exact .inl rfl
  | present cells len =>
    simp only [hostStep] at h
    split at h <;> cases h
    exact .inl rfl
  | answerOpen a => cases h; exact .inl rfl
  | answerWrite a => cases h; exact .inl rfl
  | reset => cases h; exact .inr (.inl ⟨rfl, (hardwareReset_values _).header⟩)

theorem write_of_commandWord {act : HostAct} {w : Word32} (h : commandWord? act = some w) : act = .write 0x000 w := by
  cases act with
  | write off v =>
    simp only [commandWord?] at h
    split at h <;> cases h
    next hoff => rw [hoff]
  | _ => cases h

theorem isResetAct_init {w : Word32} (h : decode w = .ok .init) : isResetAct (.write 0x000 w) = true := by
  obtain ⟨_, hw⟩ := decodedWordIsItsEncoding w _ h
  simp [isResetAct, hw]

/-- The step's act resets the registers, or an INIT was pending (R216, R250). -/
def ResetsNow (s : State) : Prop :=
  s.initPending = true ∨ ∃ act rest, s.inbox = act :: rest ∧ isResetAct act = true

/-- The step reads the header of a command in flight, or accepts a command that starts with that read. -/
def ReadsHeaderNow (s : State) : Prop :=
  AtHeaderRead s ∨ ∃ w rest, s.inbox = .write 0x000 w :: rest ∧ s.phase = .idle
    ∧ (decode w = .ok .hdrDecode ∨ ∃ v, decode w = .ok (.run v))

/-- What can become of HIMG in one step. -/
def StepHimgOutcome (s t : State) : Prop :=
  t.himg = s.himg ∨ (ResetsNow s ∧ t.himg = zeroBytes 2124) ∨ (ReadsHeaderNow s ∧ HimgRead s t)

theorem HimgOutcome.of_step {s t : State} (h : HimgOutcome s t) : StepHimgOutcome s t := by
  obtain ⟨hinit, hzero⟩ | ⟨hsame, _⟩ | ⟨hat, hread⟩ := h
  · exact .inr (.inl ⟨.inl hinit, hzero⟩)
  · exact .inl hsame
  · exact .inr (.inr ⟨.inl hat, hread⟩)

/-- The command that a word written to CMD decodes to. -/
theorem command_himg {i : Instr} {w : Word32} {rest : List HostAct} {s t : State} (hin : s.inbox = .write 0x000 w :: rest)
    (hw : decode w = .ok i) (h : exec i { s with inbox := rest } = .next t) :
    StepHimgOutcome s t := by
  by_cases hi : i = .init
  · subst hi
    exact (execInit_himg h).imp_right fun hzero => .inl ⟨.inr ⟨_, rest, hin, isResetAct_init hw⟩, hzero⟩
  · obtain hsame | ⟨hinit, hzero⟩ | ⟨hidle, hdec, hread⟩ := exec_himg hi h
    · exact .inl hsame
    · exact .inr (.inl ⟨.inl hinit, hzero⟩)
    · refine .inr (.inr ⟨.inr ⟨w, rest, hin, hidle, ?_⟩, hread⟩)
      obtain rfl | ⟨v, rfl⟩ := hdec
      · exact .inl hw
      · exact .inr ⟨v, hw⟩

theorem step_himg {s t : State} (h : step s = .next t) : StepHimgOutcome s t := by
  cases hin : s.inbox with
  | nil => exact (engineStep_himgOutcome (step_quiet hin ▸ h)).of_step
  | cons act rest =>
    cases hc : commandWord? act with
    | none =>
      obtain hsame | ⟨rfl, hzero⟩ | hout := hostStep_himg (step_act hin hc ▸ h)
      · exact .inl hsame
      · exact .inr (.inl ⟨.inr ⟨.reset, rest, hin, rfl⟩, hzero⟩)
      · exact hout.of_step
    | some w =>
      obtain ⟨i, hw, hs⟩ | ⟨_, hs⟩ := step_command hin hc
      · exact command_himg (write_of_commandWord hc ▸ hin) hw (hs ▸ h)
      · cases hs.symm.trans h
        exact .inl (acceptIllegal_himg w _)

/-- Settles O32: a micro-step and a step leave HIMG, reset it, or read it whole. -/
theorem himgWrittenOnlyByHeaderDecode : Obligations.HimgWrittenOnlyByHeaderDecode := by
  refine ⟨fun s t ht hne => ?_, fun s t ht hne => ?_⟩
  · obtain hreset | ⟨hsame, _⟩ | hread := engineTick_himgOutcome ht
    · exact .inl hreset
    · exact absurd hsame hne
    · exact .inr hread
  · exact (step_himg ht).resolve_left hne

end Sys2Proof.Machine

namespace Sys2Proof.Machine

/-! The integrity validator's meanings (R165-R178): VAL_STRUCT's two gates, VAL_CKSUM's two regions, and what RUN with V = 1
makes of one changed byte of region 2. -/

/-! From acceptance to the end of a body -/

/-- A command that has the milestone it needs lacks none (R206). -/
theorem missing_none_of_isSet {c : Instr} {m : Milestone} {s : State} (hpre : precondition c = some m)
    (h : m.isSet s = true) : missing (precondition c) s = none := by
  simp only [hpre, missing, h, if_true]

section Body

variable {c : Instr} {start : State → State} {ph : Phase} {st : Stage} {s r : State} {k : Nat}

/-- A command whose micro-steps lead to a `raise` with the registers of r ends in that error's entry. -/
theorem accept_raises {e : ErrInfo} (hr : Ready s) (hm : missing (precondition c) s = none) (hu : Untouched s (start s))
    (ht : Ticks k (start s) (raise c e (beginStage ph c st r))) (hframe : Untouched s r) (hk : k + 3 ≤ drainBound) :
    accept c start s = failedWith e r :=
  accept_to_raise (u := beginStage ph c st r) hr hm hu ht (hframe.trans (beginStage_untouched ph c st r)) hk

/-- A command whose micro-steps lead to its end with the registers of r ends in r. -/
theorem accept_completes (hr : Ready s) (hm : missing (precondition c) s = none) (hu : Untouched s (start s))
    (ht : Ticks k (start s) (complete (beginStage ph c st r))) (hidle : r.phase = .idle) (hfree : r.flight = none)
    (hk : k ≤ drainBound) : accept c start s = r := by
  rw [complete_beginStage hidle hfree] at ht
  exact accept_to hr hm hu ht hfree hk

end Body

/-! VAL_STRUCT (R165, R167) -/

/-- TBUF and TLEN as the version gate leaves them (R165, R34). -/
def versionRead (s : State) : State :=
  { s with
    tbuf := unitsOf s.himg 0 24 ++ zeroUnits 232, tlen := BitVec.ofNat 9 (textOf s.pad s.himg 0 24).length }

/-- What passing both gates leaves: the version of BP_R1.0.0 has 9 units. -/
def structPassed (s : State) : State :=
  { s with sv := true, tbuf := unitsOf s.himg 0 24 ++ zeroUnits 232, tlen := 9#9 }

section Struct

variable {c : Instr} {s : State}

theorem struct_tick_sizeMismatch (hsize : (hdrFileSize s.himg).zeroExtend 64 ≠ s.len) :
    stageTick ⟨c, .struct⟩ s =
      some (raise c ⟨.sizeMismatch, 0#32, (hdrFileSize s.himg).zeroExtend 64, s.len, 0#64⟩ s) := by
  rw [struct_tick, if_pos hsize]

theorem struct_tick_badVersion (hsize : (hdrFileSize s.himg).zeroExtend 64 = s.len)
    (hversion : textOf s.pad s.himg 0 24 ≠ Config.versionLit) :
    stageTick ⟨c, .struct⟩ s = some (raise c ⟨.badVersion, 0#32, 0#64, 0#64, 0#64⟩ (versionRead s)) := by
  rw [struct_tick, if_neg (not_not_intro hsize), if_pos hversion, versionRead]

theorem struct_tick_passes (hsize : (hdrFileSize s.himg).zeroExtend 64 = s.len)
    (hversion : textOf s.pad s.himg 0 24 = Config.versionLit) :
    stageTick ⟨c, .struct⟩ s = some (afterStruct c (structPassed s)) := by
  rw [struct_tick, if_neg (not_not_intro hsize), if_neg (not_not_intro hversion), structPassed]

end Struct

/-- VAL_STRUCT ends in the error its one micro-step raises, with the registers that leaves. -/
theorem exec_valStruct_raises {e : ErrInfo} {s r : State} (hr : Ready s) (hhv : s.hv = true)
    (htick : stageTick ⟨.valStruct, .struct⟩ (beginStruct .valStruct s) =
      some (raise .valStruct e (beginStage .struct .valStruct .struct r)))
    (hframe : Untouched s r) : exec .valStruct s = .next (failedWith e r) :=
  congrArg _ (accept_raises hr (missing_none_of_isSet (c := .valStruct) rfl hhv) (beginStruct_untouched _ s)
    (.stage (s := beginStruct .valStruct s) hr.calm rfl htick) hframe (by decide))

/-- A container that passes both gates. -/
theorem exec_valStruct_passes {s : State} (hr : Ready s) (hhv : s.hv = true)
    (hsize : (hdrFileSize s.himg).zeroExtend 64 = s.len) (hversion : textOf s.pad s.himg 0 24 = Config.versionLit) :
    exec .valStruct s = .next (structPassed s) := by
  have htick : stageTick ⟨.valStruct, .struct⟩ (beginStruct .valStruct s) =
      some (complete (beginStage .struct .valStruct .struct (structPassed s))) :=
    struct_tick_passes (s := beginStruct .valStruct s) hsize hversion
  exact congrArg _ (accept_completes hr (missing_none_of_isSet (c := .valStruct) rfl hhv) (beginStruct_untouched _ s)
    (.stage (s := beginStruct .valStruct s) hr.calm rfl htick) hr.idle hr.noFlight (by decide))

/-- Settles O37: the size gate, then the version gate, in the one micro-step of STRUCT_BODY. -/
theorem valStructChecksSizeThenVersion : Obligations.ValStructChecksSizeThenVersion := by
  intro s hr hhv
  by_cases hsize : (hdrFileSize s.himg).zeroExtend 64 = s.len
  · rw [if_neg (not_not_intro hsize)]
    by_cases hversion : textOf s.pad s.himg 0 24 = Config.versionLit
    · rw [if_neg (not_not_intro hversion)]
      exact exec_valStruct_passes hr hhv hsize hversion
    · rw [if_pos hversion]
      exact exec_valStruct_raises (r := versionRead { s with sv := false }) hr hhv
        (struct_tick_badVersion (s := beginStruct .valStruct s) hsize hversion)
        (by constructor <;> exact Eq.refl _)
  · rw [if_pos hsize]
    exact exec_valStruct_raises (r := { s with sv := false }) hr hhv
      (struct_tick_sizeMismatch (s := beginStruct .valStruct s) hsize) (by constructor <;> exact Eq.refl _)

/-! VAL_CKSUM (R170-R173, R178) -/

/-- The header says that region 1 is compared (R171). -/
abbrev magicMatches (s : State) : Bool := decide (hdrMagic s.himg = 0xFFFAFFFA#32)

/-- What CK_BODY leaves when region 1 is folded and its comparison fails (R170, R173). -/
def region1Folded (s : State) : State :=
  { s with cv := false, c1 := false, ck := cksum (s.src.read 0 2120), cur := 2120#64, held := true }

/-- What CK_BODY leaves when region 2 is folded and compared, region 1 compared before it or left out (R170, R178). -/
def region2Folded (passed : Bool) (s : State) : State :=
  { s with
    cv := passed, c1 := magicMatches s, ck := cksum (s.src.read 2124 (s.len.toNat - 2124)), cur := s.len
    held := s.held || magicMatches s || decide (2124 < s.len.toNat) }

/-- What region 1's comparison raises (R173). -/
def crc1Info (s : State) : ErrInfo :=
  ⟨.crc1Mismatch, 0#32, (hdrCrc1 s.himg).zeroExtend 64, (cksum (s.src.read 0 2120)).zeroExtend 64, 0#64⟩

/-- What region 2's comparison raises (R172, R173). -/
def crc2Info (s : State) : ErrInfo :=
  ⟨.crc2Mismatch, 0#32, (hdrCrc2 s.himg).zeroExtend 64,
    (cksum (s.src.read 2124 (s.len.toNat - 2124))).zeroExtend 64, 0#64⟩

theorem region1Folded_untouched (s : State) : Untouched s (region1Folded s) := by constructor <;> exact Eq.refl _

theorem region2Folded_untouched (passed : Bool) (s : State) : Untouched s (region2Folded passed s) := by
  constructor <;> exact Eq.refl _

section Cksum

variable (c : Instr) {s : State}

theorem ck_ticks_crc1 (hc : Calm s) (hl : 2124 ≤ s.len.toNat)
    (h1 : magicMatches s = true ∧ cksum (s.src.read 0 2120) ≠ hdrCrc1 s.himg) :
    ∃ k, k ≤ 2 ^ 64 + 2 ^ 20 ∧ Ticks k (beginCksum c s)
      (raise c (crc1Info s) (beginStage .ck1 c (.fold1 2120) (region1Folded s))) := by
  obtain ⟨k, hk, ht⟩ := ck_ticks c s hc hl
  simp only [if_pos h1] at ht
  simp only [crc1Info, region1Folded, beginStage]
  exact ⟨k, hk, ht⟩

theorem ck_ticks_crc2 (hc : Calm s) (hl : 2124 ≤ s.len.toNat)
    (h1 : ¬ (magicMatches s = true ∧ cksum (s.src.read 0 2120) ≠ hdrCrc1 s.himg))
    (h2 : cksum (s.src.read 2124 (s.len.toNat - 2124)) ≠ hdrCrc2 s.himg) :
    ∃ k, k ≤ 2 ^ 64 + 2 ^ 20 ∧ Ticks k (beginCksum c s)
      (raise c (crc2Info s) (beginStage .ck2 c (.fold2 s.len.toNat) (region2Folded false s))) := by
  obtain ⟨k, hk, ht⟩ := ck_ticks c s hc hl
  simp only [if_neg h1, if_pos h2] at ht
  simp only [crc2Info, region2Folded, beginStage]
  exact ⟨k, hk, ht⟩

theorem ck_ticks_passes (hc : Calm s) (hl : 2124 ≤ s.len.toNat)
    (h1 : ¬ (magicMatches s = true ∧ cksum (s.src.read 0 2120) ≠ hdrCrc1 s.himg))
    (h2 : cksum (s.src.read 2124 (s.len.toNat - 2124)) = hdrCrc2 s.himg) :
    ∃ k, k ≤ 2 ^ 64 + 2 ^ 20 ∧ Ticks k (beginCksum c s)
      (afterCksum c (beginStage .ck2 c (.fold2 s.len.toNat) (region2Folded true s))) := by
  obtain ⟨k, hk, ht⟩ := ck_ticks c s hc hl
  simp only [if_neg h1, if_neg (not_not_intro h2)] at ht
  simp only [region2Folded, beginStage]
  exact ⟨k, hk, ht⟩

end Cksum

/-- VAL_CKSUM ends in the error its comparisons raise, with the registers that leaves. -/
theorem exec_valCksum_raises {e : ErrInfo} {ph : Phase} {st : Stage} {s r : State} (hr : Ready s) (hsv : s.sv = true)
    (ht : ∃ k, k ≤ 2 ^ 64 + 2 ^ 20 ∧
      Ticks k (beginCksum .valCksum s) (raise .valCksum e (beginStage ph .valCksum st r)))
    (hframe : Untouched s r) : exec .valCksum s = .next (failedWith e r) := by
  obtain ⟨k, hk, ht⟩ := ht
  exact congrArg _ (accept_raises hr (missing_none_of_isSet (c := .valCksum) rfl hsv) (beginCksum_untouched _ s) ht hframe
    (by simp only [drainBound]; omega))

/-- Both comparisons pass, or region 1 is left out and the other passes. -/
theorem exec_valCksum_passes {s : State} (hr : Ready s) (hsv : s.sv = true) (hl : 2124 ≤ s.len.toNat)
    (h1 : ¬ (magicMatches s = true ∧ cksum (s.src.read 0 2120) ≠ hdrCrc1 s.himg))
    (h2 : cksum (s.src.read 2124 (s.len.toNat - 2124)) = hdrCrc2 s.himg) :
    exec .valCksum s = .next (region2Folded true s) := by
  obtain ⟨k, hk, ht⟩ := ck_ticks_passes .valCksum hr.calm hl h1 h2
  exact congrArg _ (accept_completes hr (missing_none_of_isSet (c := .valCksum) rfl hsv) (beginCksum_untouched _ s) ht hr.idle
    hr.noFlight (by simp only [drainBound]; omega))

/-- Settles O38: region 1's comparison when the magic matches, then region 2's. -/
theorem valCksumComparesTheRegions : Obligations.ValCksumComparesTheRegions := by
  intro s hr hsv hl
  by_cases h1 : magicMatches s = true ∧ cksum (s.src.read 0 2120) ≠ hdrCrc1 s.himg
  · simp only [if_pos h1]
    exact exec_valCksum_raises hr hsv (ck_ticks_crc1 .valCksum hr.calm hl h1) (region1Folded_untouched s)
  · simp only [if_neg h1]
    by_cases h2 : cksum (s.src.read 2124 (s.len.toNat - 2124)) = hdrCrc2 s.himg
    · rw [if_neg (not_not_intro h2)]
      exact exec_valCksum_passes hr hsv hl h1 h2
    · rw [if_pos h2]
      exact exec_valCksum_raises hr hsv (ck_ticks_crc2 .valCksum hr.calm hl h1 h2) (region2Folded_untouched false s)

/-! One changed byte of region 2 (R177) -/

section Mutation

variable {m m' : Memory} {a : Nat}

/-- Two sources that differ at a only read alike where a does not lie. -/
theorem Memory.read_eq_of_byteAt_eq (hsame : ∀ b, b ≠ a → m'.byteAt b = m.byteAt b) {o n : Nat}
    (ha : a < o ∨ o + n ≤ a) : m'.read o n = m.read o n := by
  unfold Memory.read
  refine List.map_congr_left fun i hi => hsame (o + i) ?_
  have := List.mem_range.1 hi
  omega

/-- A read split at an offset inside it. -/
theorem Memory.read_split (m : Memory) {o n : Nat} (hlo : o ≤ a) (hhi : a < o + n) :
    m.read o n = m.read o (a - o) ++ m.byteAt a :: m.read (a + 1) (o + n - (a + 1)) := by
  have hone : m.read a 1 = [m.byteAt a] := by simp [Memory.read]
  obtain ⟨j, rfl⟩ := Nat.exists_eq_add_of_le hlo
  obtain ⟨l, hl⟩ := Nat.exists_eq_add_of_lt hhi
  obtain rfl : n = j + (1 + l) := by omega
  rw [Memory.read_append, Memory.read_append, hone, Nat.add_sub_cancel_left, List.singleton_append]
  congr 3
  omega

/-- With R140's property of CK_STEP the checksum of a region shows one changed byte of it. -/
theorem cksum_read_ne (hck : CkDetectsSingleByte) (hsame : ∀ b, b ≠ a → m'.byteAt b = m.byteAt b)
    (hdiff : m'.byteAt a ≠ m.byteAt a) {o n : Nat} (hlo : o ≤ a) (hhi : a < o + n) :
    cksum (m'.read o n) ≠ cksum (m.read o n) := by
  rw [m'.read_split hlo hhi, m.read_split hlo hhi, Memory.read_eq_of_byteAt_eq hsame (.inr (by omega)),
    Memory.read_eq_of_byteAt_eq hsame (.inl (Nat.lt_succ_self a))]
  exact hck Config.ckSeed _ _ _ _ hdiff

end Mutation

/-- RUN v of a container with a whole header goes from HDR_BODY on to STRUCT_BODY (R210). -/
theorem run_header_ticks (v : Bool) {s : State} (hc : Calm s) (hl : 2124 ≤ s.len.toNat) :
    Ticks 1 (beginHdr (.run v) s) (beginStruct (.run v) (headerRead s)) :=
  .stage (s := beginHdr (.run v) s) hc rfl (hdr_tick (.run v) (beginHdr (.run v) s) hl)

/-- RUN with V = 1 of a container that passes both gates goes on to CK_BODY (R210). -/
theorem run_struct_ticks {s : State} (hc : Calm s) (hsize : (hdrFileSize s.himg).zeroExtend 64 = s.len)
    (hversion : textOf s.pad s.himg 0 24 = Config.versionLit) :
    Ticks 1 (beginStruct (.run true) s) (beginCksum (.run true) (structPassed s)) :=
  .stage (s := beginStruct (.run true) s) hc rfl
    (struct_tick_passes (c := .run true) (s := beginStruct (.run true) s) hsize hversion)

/-- RUN with V = 1 of a container whose header, read into HIMG, passes both gates and the first comparison, and whose
region 2 fails the second. The state after the read is a variable, so that no proof evaluates its 2124 bytes. -/
theorem exec_run_crc2 {s r : State} (hr : Ready s) (hl : 2124 ≤ s.len.toNat) (hread : r = headerRead s)
    (hsize : (hdrFileSize r.himg).zeroExtend 64 = r.len) (hversion : textOf r.pad r.himg 0 24 = Config.versionLit)
    (h1 : magicMatches r = true → cksum (r.src.read 0 2120) = hdrCrc1 r.himg)
    (h2 : cksum (r.src.read 2124 (r.len.toNat - 2124)) ≠ hdrCrc2 r.himg) :
    exec (.run true) s = .next (failedWith (crc2Info r) (region2Folded false (structPassed r))) := by
  have hheader := run_header_ticks true hr.calm hl
  have hframe : Untouched s r := by subst hread; constructor <;> exact Eq.refl _
  rw [← hread] at hheader
  have hcalm := hframe.calm hr.calm
  obtain ⟨k, hk, hcksum⟩ := ck_ticks_crc2 (.run true) (s := structPassed r) hcalm (hframe.len ▸ hl)
    (fun ⟨hmagic, hne⟩ => hne (h1 hmagic)) h2
  have hpassed : Untouched r (region2Folded false (structPassed r)) := by constructor <;> exact Eq.refl _
  exact congrArg _ (accept_raises hr rfl (beginHdr_untouched _ s)
    ((hheader.trans (run_struct_ticks hcalm hsize hversion)).trans hcksum) (hframe.trans hpassed)
    (by simp only [drainBound]; omega))

/-- Settles O39: the changed byte lies outside the header, so RUN reaches region 2's comparison, which shows it. -/
theorem singleByteMutationIsDetected : Obligations.SingleByteMutationIsDetected := by
  intro hck s s' a hr hlen hpad hlo hhi hdiff hsame hsize hversion h1 h2
  have hheader : s'.src.read 0 2124 = s.src.read 0 2124 := Memory.read_eq_of_byteAt_eq hsame (.inr (by omega))
  have hregion1 : s'.src.read 0 2120 = s.src.read 0 2120 := Memory.read_eq_of_byteAt_eq hsame (.inr (by omega))
  have hregion2 : cksum (s'.src.read 2124 (s.len.toNat - 2124)) ≠ hdrCrc2 (s.src.read 0 2124) :=
    h2 ▸ cksum_read_ne hck hsame hdiff hlo (by omega)
  obtain ⟨r, hread⟩ : ∃ r, r = headerRead s' := ⟨_, rfl⟩
  have himg : r.himg = s.src.read 0 2124 := by simp only [hread, headerRead, hheader]
  have hsrc : r.src = s'.src := by rw [hread]; rfl
  have hlen' : r.len = s.len := by rw [hread, ← hlen]; rfl
  have hpad' : r.pad = s.pad := by rw [hread, ← hpad]; rfl
  rw [← himg] at hsize hversion h1 hregion2 ⊢
  rw [← hregion1] at h1
  rw [← hlen'] at hsize hregion2 ⊢
  rw [← hpad'] at hversion
  rw [← hsrc] at h1 hregion2 ⊢
  exact ⟨_, exec_run_crc2 hr (by rw [hlen]; omega) hread hsize hversion (fun hmagic => h1 (of_decide_eq_true hmagic))
    hregion2, rfl, rfl, rfl, rfl⟩

end Sys2Proof.Machine

namespace Sys2Proof.Machine

/-! Where a ChecksumError comes from (R176): by micro-step, by drained command, by command, by step. -/

/-- The commands that compare checksums: VAL_CKSUM, and RUN with V = 1. -/
def ComparesChecksums (c : Instr) : Prop := c = .valCksum ∨ c = .run true

/-- What `stageOk` says of checksums: their comparisons, and the entry of a ChecksumError, belong to such a command. -/
def ChecksumStage (f : Flight) : Prop :=
  match f.stage with
  | .fold1 _ => ComparesChecksums f.cmd
  | .fold2 _ => ComparesChecksums f.cmd
  | .raising e => e.cause.kind = .checksum → ComparesChecksums f.cmd
  | _ => True

theorem stageOk_checksumStage {f : Flight} {s : State} (h : stageOk f s) : ChecksumStage f := by
  obtain ⟨c, st⟩ := f
  cases st with
  | fold1 p | fold2 p => obtain ⟨_, _, _, hc, _⟩ := h; exact hc
  | raising e => obtain ⟨_, _, _, hc⟩ := h; exact hc
  | _ => trivial

/-- Nothing is in flight, or command c is, at a stage that may raise a ChecksumError only if c compares checksums. -/
def ChecksumOptIn (c : Instr) (s : State) : Prop := ∀ f, s.flight = some f → f.cmd = c ∧ ChecksumStage f

theorem complete_optIn (c : Instr) (s : State) : ChecksumOptIn c (complete s) := nofun

theorem goTo_optIn {c : Instr} {st : Stage} {s : State} (h : ChecksumStage ⟨c, st⟩) :
    ChecksumOptIn c (goTo c st s) := fun _ hf => by
  cases hf
  exact ⟨rfl, h⟩

theorem beginStage_optIn {ph : Phase} {c : Instr} {st : Stage} {s : State} (h : ChecksumStage ⟨c, st⟩) :
    ChecksumOptIn c (beginStage ph c st s) := fun _ hf => by
  cases hf
  exact ⟨rfl, h⟩

/-- A `raise` of any other kind of error. -/
theorem raise_optIn {c : Instr} {e : ErrInfo} {s : State} (h : e.cause.kind ≠ .checksum) :
    ChecksumOptIn c (raise c e s) :=
  goTo_optIn fun hk => absurd hk h

/-! What follows each body (R210) -/

theorem beginCksum_optIn {c : Instr} (h : ComparesChecksums c) (s : State) : ChecksumOptIn c (beginCksum c s) := by
  unfold beginCksum
  split
  · exact beginStage_optIn h
  · exact beginStage_optIn h

theorem afterHdr_optIn (c : Instr) (s : State) : ChecksumOptIn c (afterHdr c s) := by
  unfold afterHdr
  split
  · exact beginStage_optIn trivial
  · exact complete_optIn _ _

/-- Of the commands that go on after STRUCT_BODY only RUN with V = 1 goes on to CK_BODY. -/
theorem afterStruct_optIn (c : Instr) (s : State) : ChecksumOptIn c (afterStruct c s) := by
  unfold afterStruct
  split
  · exact beginCksum_optIn (.inr rfl) _
  · exact beginStage_optIn trivial
  · exact complete_optIn _ _

theorem afterCksum_optIn (c : Instr) (s : State) : ChecksumOptIn c (afterCksum c s) := by
  unfold afterCksum
  split
  · exact beginStage_optIn trivial
  · exact complete_optIn _ _

theorem afterTable_optIn (c : Instr) (s : State) : ChecksumOptIn c (afterTable c s) := by
  unfold afterTable
  split
  · exact beginStage_optIn trivial
  · exact complete_optIn _ _

/-! The micro-steps of each stage -/

/-- What a failed MemRead raises is an IOError (R61, R226). -/
theorem memRead_error_kind {idx : Word32} {a n : Nat} {s : State} {e : ErrInfo} (h : memRead idx a n s = .error e) :
    e.cause.kind ≠ .checksum := by
  obtain ⟨_, hm⟩ | ⟨_, hm⟩ := memRead_cases idx a n s <;> cases hm.symm.trans h
  exact ErrKind.noConfusion

section MicroSteps

variable (c : Instr) (s : State)

theorem tickRdU16_optIn : ChecksumOptIn c (tickRdU16 c s) := by
  unfold tickRdU16
  split
  next e hm => exact raise_optIn (memRead_error_kind hm)
  next => exact complete_optIn _ _

theorem tickRdU32_optIn : ChecksumOptIn c (tickRdU32 c s) := by
  unfold tickRdU32
  split
  next e hm => exact raise_optIn (memRead_error_kind hm)
  next => exact complete_optIn _ _

theorem tickRdText_optIn (n : Nat) : ChecksumOptIn c (tickRdText c n s) := by
  unfold tickRdText
  split
  next e hm => exact raise_optIn (memRead_error_kind hm)
  next => exact complete_optIn _ _

theorem tickHdr_optIn : ChecksumOptIn c (tickHdr c s) := by
  unfold tickHdr
  split
  · exact raise_optIn ErrKind.noConfusion
  · split
    next e hm => exact raise_optIn (memRead_error_kind hm)
    next => exact afterHdr_optIn _ _

theorem tickStruct_optIn : ChecksumOptIn c (tickStruct c s) := by
  simp only [tickStruct]
  split
  · exact raise_optIn ErrKind.noConfusion
  · split
    · exact raise_optIn ErrKind.noConfusion
    · exact afterStruct_optIn _ _

variable {c s}

theorem foldPiece_optIn {next : Nat → Stage} {p b : Nat} (h : ∀ p, ChecksumStage ⟨c, next p⟩) :
    ChecksumOptIn c (foldPiece c next p b s) := by
  simp only [foldPiece]
  split
  next e hm => exact raise_optIn (memRead_error_kind hm)
  next => exact goTo_optIn (h _)

theorem tickFold1_optIn (h : ComparesChecksums c) (p : Nat) : ChecksumOptIn c (tickFold1 c p s) := by
  unfold tickFold1
  split
  · exact foldPiece_optIn fun _ => h
  · split
    · exact goTo_optIn fun _ => h
    · exact beginStage_optIn h

theorem tickFold2_optIn (h : ComparesChecksums c) (p : Nat) : ChecksumOptIn c (tickFold2 c p s) := by
  unfold tickFold2
  split
  · exact foldPiece_optIn fun _ => h
  · split
    · exact goTo_optIn fun _ => h
    · exact afterCksum_optIn _ _

variable (c s)

theorem tickTabLen_optIn (i : Nat) : ChecksumOptIn c (tickTabLen c i s) := by
  unfold tickTabLen
  split
  · split
    next e hm => exact raise_optIn (memRead_error_kind hm)
    next =>
      dsimp only
      split
      · exact raise_optIn ErrKind.noConfusion
      · exact goTo_optIn trivial
  · exact afterTable_optIn _ _

theorem tickTabBody_optIn (i : Nat) (W : List Byte) : ChecksumOptIn c (tickTabBody c i W s) := by
  unfold tickTabBody
  split
  next e hm => exact raise_optIn (memRead_error_kind hm)
  next => exact goTo_optIn trivial

variable {c s}

theorem tickPart_optIn {i : Nat} {t : State} (h : tickPart c i s = some t) : ChecksumOptIn c t := by
  simp only [tickPart] at h
  split at h
  · split at h
    · cases h; exact goTo_optIn trivial
    · split at h
      · cases h
      · split at h <;> cases h
        · exact goTo_optIn trivial
        · exact raise_optIn ErrKind.noConfusion
        · exact raise_optIn ErrKind.noConfusion
  · cases h; exact complete_optIn _ _

theorem tickChunkRead_optIn (i p rem size : Nat) : ChecksumOptIn c (tickChunkRead c i p rem size s) := by
  unfold tickChunkRead
  split
  · exact goTo_optIn trivial
  · split
    next e hm => exact raise_optIn (memRead_error_kind hm)
    next => exact goTo_optIn trivial

theorem tickChunkWrite_optIn {i p rem size : Nat} {B : List Byte} {t : State}
    (h : tickChunkWrite c i p rem size B s = some t) : ChecksumOptIn c t := by
  simp only [tickChunkWrite] at h
  split at h
  · cases h
  · split at h <;> cases h
    · exact goTo_optIn trivial
    · exact raise_optIn ErrKind.noConfusion

theorem errorStep_optIn {e : ErrInfo} (h : ChecksumOptIn c s) : ChecksumOptIn c (errorStep e s) := by
  obtain ⟨_, _, _, hsame | hnone⟩ := errorStep_header e s
  · exact fun f hf => h f (hsame ▸ hf)
  · exact fun f hf => by cases hnone.symm.trans hf

/-- The command in flight stays the same, and stands at a comparison or enters a ChecksumError only if it may. -/
theorem stageTick_optIn {st : Stage} {t : State} (hf : s.flight = some ⟨c, st⟩) (hst : ChecksumStage ⟨c, st⟩)
    (h : stageTick ⟨c, st⟩ s = some t) : ChecksumOptIn c t := by
  cases st with
  | ckReset | ckUpdate _ | seek => cases h; exact complete_optIn _ _
  | rdU16 => cases h; exact tickRdU16_optIn c s
  | rdU32 => cases h; exact tickRdU32_optIn c s
  | rdText n => cases h; exact tickRdText_optIn c s n.toNat
  | hdr => cases h; exact tickHdr_optIn c s
  | struct => cases h; exact tickStruct_optIn c s
  | fold1 p => cases h; exact tickFold1_optIn hst p
  | fold2 p => cases h; exact tickFold2_optIn hst p
  | tabLen i => cases h; exact tickTabLen_optIn c s i
  | tabBody i W => cases h; exact tickTabBody_optIn c s i W
  | part i => exact tickPart_optIn h
  | chunkRead i p rem size => cases h; exact tickChunkRead_optIn i p rem size
  | chunkWrite i p rem size B => exact tickChunkWrite_optIn h
  | progress i p rem size => cases h; exact goTo_optIn trivial
  | raising e =>
    cases h
    refine errorStep_optIn fun g hg => ?_
    cases hf.symm.trans hg
    exact ⟨rfl, hst⟩

end MicroSteps

/-! By micro-step and by drained command -/

/-- A ChecksumError latched in t was latched in s already. -/
def NoNewChecksumError (s t : State) : Prop := t.errKind = .checksum → s.errKind = .checksum

theorem NoNewChecksumError.of_eq {s t : State} (h : t.errKind = s.errKind) : NoNewChecksumError s t := fun ht =>
  h.symm.trans ht

theorem NoNewChecksumError.trans {s t u : State} (h : NoNewChecksumError s t) (k : NoNewChecksumError t u) :
    NoNewChecksumError s u := fun hu => h (k hu)

/-- Every register of a reset state is at its reset value, ERR_KIND among them (R48). -/
theorem ResetValues.noNewChecksumError {s t : State} (h : ResetValues t) : NoNewChecksumError s t := fun ht => by
  obtain ⟨hkind, _⟩ := h.errors
  cases hkind.symm.trans ht

/-- A micro-step of command c latches a ChecksumError only if c compares checksums. -/
theorem engineTick_checksum {c : Instr} {s t : State} (h : ChecksumOptIn c s) (ht : engineTick s = some t) :
    ChecksumOptIn c t ∧ (ComparesChecksums c ∨ NoNewChecksumError s t) := by
  obtain ⟨⟨d, st⟩, hf, hend⟩ := engineTick_cases ht
  obtain ⟨rfl, hst⟩ := h _ hf
  obtain ⟨u, hu, _, ⟨_, rfl⟩ | ⟨_, rfl⟩⟩ | ⟨_, _, rfl⟩ := hend
  · have hopt : ChecksumOptIn d u := stageTick_optIn hf hst hu
    refine ⟨hopt, ?_⟩
    obtain ⟨_, _, hsame | ⟨e, rfl, hkind⟩⟩ := stageTick_header hf hu
    · exact .inr (.of_eq hsame)
    · by_cases hcompares : ComparesChecksums d
      · exact .inl hcompares
      · exact .inr fun hlatched => absurd (hst (hkind.symm.trans hlatched)) hcompares
  · have hreset := performInit_values { u with awaiting := false }
    refine ⟨fun f hf => ?_, .inr hreset.noNewChecksumError⟩
    cases hreset.continuation.1.symm.trans hf
  · exact ⟨h, .inr (.of_eq rfl)⟩

/-- A command just started that compares no checksums latches no ChecksumError, run to its end or left in flight. -/
theorem settle_checksum {c : Instr} {s : State} (hc : ¬ ComparesChecksums c) (h : ChecksumOptIn c s) :
    NoNewChecksumError s (settle s) := by
  unfold settle
  split
  · have hrun : ChecksumOptIn c (drain drainBound s) ∧ NoNewChecksumError s (drain drainBound s) :=
      drain_induct (P := fun t => ChecksumOptIn c t ∧ NoNewChecksumError s t)
        (fun t u ⟨hopt, hnew⟩ hu => by
          obtain ⟨hopt', hcompares | hnew'⟩ := engineTick_checksum hopt hu
          · exact absurd hcompares hc
          · exact ⟨hopt', hnew.trans hnew'⟩)
        _ ⟨h, .of_eq rfl⟩
    exact hrun.2
  · exact .of_eq rfl

/-! By command -/

/-- Acceptance latches no error of its own but a CmdError (R205, R234). -/
theorem accept_checksum (c : Instr) (start : State → State) (s : State) :
    NoNewChecksumError s (accept c start s) ∨ s.phase = .idle ∧ accept c start s = settle (start s) := by
  obtain ⟨_, ht⟩ | ⟨_, ht⟩ | ⟨m, _, _, ht⟩ | ⟨hidle, _, ht⟩ := accept_cases c start s <;> rw [ht]
  · exact .inl (.of_eq rfl)
  · exact .inl (.of_eq rfl)
  · exact .inl nofun
  · exact .inr ⟨hidle, rfl⟩

theorem acceptIllegal_checksum (w : Word32) (s : State) : NoNewChecksumError s (acceptIllegal w s) := by
  obtain ⟨_, ht⟩ | ⟨_, ht⟩ | ⟨_, ht⟩ := acceptIllegal_cases w s <;> rw [ht]
  · exact .of_eq rfl
  · exact .of_eq rfl
  · exact nofun

theorem execInit_checksum {s t : State} (h : exec .init s = .next t) : NoNewChecksumError s t := by
  by_cases hawait : s.awaiting = true
  · cases (execInit_of_awaiting hawait).symm.trans h
    exact .of_eq rfl
  · cases (execInit_of_not_awaiting (Bool.eq_false_iff.2 hawait)).symm.trans h
    exact (performInit_values s).noNewChecksumError

/-- A command that compares no checksums starts at a stage that may raise no ChecksumError, and leaves ERR_KIND there. -/
theorem exec_starts_optIn {i : Instr} (hi : i ≠ .init) (hc : ¬ ComparesChecksums i) (s : State) :
    (∃ start : State → State, exec i s = .next (accept i start s) ∧ (start s).errKind = s.errKind
        ∧ ChecksumOptIn i (start s))
      ∨ exec i s = .next (acceptIllegal (encode i) s) := by
  cases i with
  | ckReset | ckUpdate _ | seek | rdU16 | rdU32 =>
    exact .inl ⟨_, rfl, rfl, beginStage_optIn trivial⟩
  | hdrDecode | run _ => exact .inl ⟨beginHdr _, rfl, rfl, beginStage_optIn trivial⟩
  | valStruct => exact .inl ⟨beginStruct _, rfl, rfl, beginStage_optIn trivial⟩
  | ptDecode => exact .inl ⟨beginTable _, rfl, rfl, beginStage_optIn trivial⟩
  | extract => exact .inl ⟨beginExtract _, rfl, rfl, beginStage_optIn trivial⟩
  | rdText n =>
    by_cases hn : 1 ≤ n.toNat ∧ n.toNat ≤ 256
    · exact .inl ⟨_, exec_rdText_legal hn s, rfl, beginStage_optIn trivial⟩
    · exact .inr (exec_rdText_illegal hn s)
  | valCksum => exact absurd (.inl rfl) hc
  | init => exact absurd rfl hi

/-- A command latches a ChecksumError only if it compares checksums and is accepted in IDLE. -/
theorem exec_checksum {i : Instr} {s t : State} (h : exec i s = .next t) :
    NoNewChecksumError s t ∨ s.phase = .idle ∧ ComparesChecksums i := by
  by_cases hinit : i = .init
  · subst hinit
    exact .inl (execInit_checksum h)
  by_cases hc : ComparesChecksums i
  · obtain ⟨start, _, rfl⟩ | rfl := exec_cases hinit h
    · exact (accept_checksum i start s).imp_right fun ⟨hidle, _⟩ => ⟨hidle, hc⟩
    · exact .inl (acceptIllegal_checksum _ s)
  · left
    obtain ⟨start, he, hkind, hopt⟩ | he := exec_starts_optIn hinit hc s <;> cases he.symm.trans h
    · obtain hnew | ⟨_, ht⟩ := accept_checksum i start s
      · exact hnew
      · exact ht ▸ (NoNewChecksumError.of_eq hkind).trans (settle_checksum hc hopt)
    · exact acceptIllegal_checksum _ s

/-! By step -/

/-- A command that compares checksums is in flight. -/
def ComparingInFlight (s : State) : Prop := ∃ f, s.flight = some f ∧ ComparesChecksums f.cmd

theorem State.Inv.engineTick_checksum {s t : State} (h : s.Inv) (ht : engineTick s = some t) :
    NoNewChecksumError s t ∨ ComparingInFlight s := by
  obtain ⟨f, hf, _⟩ := engineTick_cases ht
  have hopt : ChecksumOptIn f.cmd s := fun g hg => by
    cases hf.symm.trans hg
    exact ⟨rfl, stageOk_checksumStage (h.inFlight.2 f hf)⟩
  exact (Machine.engineTick_checksum hopt ht).2.symm.imp_right fun hc => ⟨f, hf, hc⟩

/-- No error is latched while a command is in flight (R24, R41). -/
theorem State.Inv.errKind_of_flight {s : State} {f : Flight} (h : s.Inv) (hf : s.flight = some f) :
    s.errKind = .none :=
  (h.working (phase_ne_failed_of_busy (stageOk_phase (h.inFlight.2 f hf)).1)).noError

theorem engineStep_checksum {s t : State} (h : s.Inv) (ht : engineStep s = .next t) :
    NoNewChecksumError s t ∨ ComparingInFlight s := by
  obtain ⟨u, hu, he⟩ | he | ⟨_, _, he⟩ := engineStep_cases s <;> cases he.symm.trans ht
  · exact h.engineTick_checksum hu
  · exact .inl (.of_eq rfl)

theorem writeRegister_errKind (off : Nat) (v : Word32) (s : State) : (writeRegister off v s).errKind = s.errKind := by
  unfold writeRegister
  split_ifs <;> rfl

theorem readRegister_errKind (off : Nat) (s : State) : (readRegister off s).errKind = s.errKind := by
  unfold readRegister
  split
  · rfl
  · split_ifs <;> rfl

/-- An act other than a write to CMD latches a ChecksumError only by letting the engine perform a micro-step. -/
theorem hostStep_checksum {act : HostAct} {rest : List HostAct} {s t : State} (h : s.Inv)
    (ht : hostStep act rest s = .next t) : NoNewChecksumError s t ∨ ComparingInFlight s := by
  have hrest : State.Inv { s with inbox := rest } := h.withHost h.source
  cases act with
  | write off v =>
    simp only [hostStep] at ht
    split at ht <;> cases ht
    exact .inl (.of_eq (writeRegister_errKind off v _))
  | read off =>
    simp only [hostStep] at ht
    split at ht <;> cases ht
    exact .inl (.of_eq (readRegister_errKind off _))
  | narrow off => cases ht
  | tick => exact engineStep_checksum (s := { s with inbox := rest }) hrest ht
  | wait =>
    simp only [hostStep] at ht
    split at ht
    · exact engineStep_checksum h ht
    · cases ht; exact .inl (.of_eq rfl)
  | present cells len =>
    simp only [hostStep] at ht
    split at ht <;> cases ht
    exact .inl (.of_eq rfl)
  | answerOpen a => cases ht; exact .inl (.of_eq rfl)
  | answerWrite a => cases ht; exact .inl (.of_eq rfl)
  | reset => cases ht; exact .inl (hardwareReset_values _).noNewChecksumError

/-- The step accepts a command that compares checksums. -/
def AcceptsComparison (s : State) : Prop :=
  ∃ w rest, s.inbox = .write 0x000 w :: rest ∧ s.phase = .idle
    ∧ (decode w = .ok .valCksum ∨ decode w = .ok (.run true))

theorem step_checksum {s t : State} (h : s.Inv) (ht : step s = .next t) :
    NoNewChecksumError s t ∨ ComparingInFlight s ∨ AcceptsComparison s := by
  cases hin : s.inbox with
  | nil => exact (engineStep_checksum h (step_quiet hin ▸ ht)).imp_right .inl
  | cons act rest =>
    cases hc : commandWord? act with
    | none => exact (hostStep_checksum h (step_act hin hc ▸ ht)).imp_right .inl
    | some w =>
      obtain ⟨i, hw, hs⟩ | ⟨_, hs⟩ := step_command hin hc
      · refine (exec_checksum (hs.symm.trans ht)).imp_right fun ⟨hidle, hcompares⟩ => .inr ⟨w, rest, ?_, hidle, ?_⟩
        · rw [hin, write_of_commandWord hc]
        · obtain rfl | rfl := hcompares
          · exact .inl hw
          · exact .inr hw
      · cases hs.symm.trans ht
        exact .inl (acceptIllegal_checksum w _)

/-- Settles O40: only a comparison raises a ChecksumError, and only the two commands reach one. -/
theorem checksumErrorsAreOptIn : Obligations.ChecksumErrorsAreOptIn := by
  refine ⟨fun i s t hval hrun h ht => ?_, fun s t hinv h ht => ?_, fun s t hinv h ht => ?_⟩
  · obtain hnew | ⟨_, hi | hi⟩ := exec_checksum h
    · exact hnew ht
    · exact absurd hi hval
    · exact absurd hi hrun
  · obtain hnew | hflight := hinv.engineTick_checksum h
    · obtain ⟨f, hf, _⟩ := engineTick_cases h
      cases (hinv.errKind_of_flight hf).symm.trans (hnew ht)
    · exact hflight
  · exact (step_checksum hinv h).imp_left fun hnew => hnew ht

end Sys2Proof.Machine

namespace Sys2Proof.Machine

/-! The partition extractor (R185-R195): EXTRACT's meaning, a skipped partition, and the ways a run ends at a
transaction. -/

/-! EXTRACT of a whole table (R185, R194, R195) -/

/-- What the end of X_BODY makes of what the last partition left: XD and the release (R194). -/
def extractionEnd (t : State) : State :=
  { t with xd := true, held := false, ev := t.ev ++ (if t.held then [.srcRelease] else []) }

/-- Settles O41: the micro-steps of X_BODY partition by partition, from EXTRACT's acceptance to its end. -/
theorem extractWritesEveryPartition : Obligations.ExtractWritesEveryPartition := by
  intro s hr htv hcount hx
  obtain ⟨_, _, hphase, hflight, _, _⟩ := extractFrom_frame s.pt 0 s
  have hidle : (extractionEnd (extractFrom 0 s.pt s)).phase = .idle := hphase.trans hr.idle
  have hfree : (extractionEnd (extractFrom 0 s.pt s)).flight = none := hflight.trans hr.noFlight
  obtain ⟨k, hk, hticks⟩ : ∃ k, k ≤ 2 ^ 66 ∧ Ticks k (beginExtract .extract s)
      (complete (beginStage .extract .extract (.part s.pt.length) (extractionEnd (extractFrom 0 s.pt s)))) :=
    extract_ticks .extract s hr.calm hr.closed hcount hx
  have hbound : k ≤ drainBound := hk.trans (Nat.pow_le_pow_right (by decide) (by decide))
  exact congrArg _ (accept_completes hr (missing_none_of_isSet (c := .extract) (m := .tv) rfl htv)
    (beginExtract_untouched _ s) hticks hidle hfree hbound)

/-! A skipped partition (R186) -/

/-- With no INIT pending a micro-step is the stage's, and nothing waits afterwards. -/
theorem engineTick_stage {s t : State} {f : Flight} (hf : s.flight = some f) (hinit : s.initPending = false)
    (ht : stageTick f s = some t) : engineTick s = some { t with awaiting := false } := by
  have hinit' : t.initPending = false := (stageTick_untouched ht).initPending.trans hinit
  simp [engineTick, hf, ht, afterTick, hinit']

theorem stageTick_part_zeroSize {c : Instr} {i : Nat} {s : State} (hi : i < s.pt.length)
    (hsize : pdPartitionSize (s.pt.getD i []) = 0#32) :
    stageTick ⟨c, .part i⟩ s = some (goTo c (.part (i + 1)) s) := by
  have hsize' : (pdPartitionSize (s.pt.getD i [])).toNat = 0 := congrArg BitVec.toNat hsize
  simp only [stageTick, tickPart, if_pos hi, if_pos hsize']

/-- Settles O42: the stage of a zero-size descriptor only goes on to the next. -/
theorem zeroSizePartitionIsSkipped : Obligations.ZeroSizePartitionIsSkipped := fun _ _ _ hf hinit hi hsize =>
  engineTick_stage hf hinit (stageTick_part_zeroSize hi hsize)

/-! Transactions that end the run (R191, R192, R236) -/

section Failures

variable {c : Instr} {s : State}

/-- The cause of a DstOpen that the host does not answer OK (R185, R226). -/
abbrev openFailure (a : OpenAnswer) : Cause := if a = .path then .dirCollision else .dstOpen

/-- DstOpen answered IOERR or PATH: the destinations stay as they were (R185, log entry 13). -/
theorem stageTick_part_fails {i : Nat} {D : List Byte} {rest : List OpenAnswer} {a : OpenAnswer} (hi : i < s.pt.length)
    (hD : s.pt.getD i [] = D) (hsize : pdPartitionSize D ≠ 0#32) (ha : s.openAnswers = a :: rest) (hne : a ≠ .ok) :
    stageTick ⟨c, .part i⟩ s = some (raise c ⟨openFailure a, indexWord i, 0#64, 0#64, 0#64⟩
      { s with openAnswers := rest, pidx := indexWord i, prog := 0#7
               cur := (pdPartitionAddr D).zeroExtend 64, tbuf := pdFileNameUnits D
               tlen := BitVec.ofNat 9 (trimUnits s.pad (pdFileNameUnits D)).length
               ev := s.ev ++ [.dstOpen (trimUnits s.pad (pdFileNameUnits D))] }) := by
  have hsize' : (pdPartitionSize D).toNat ≠ 0 := fun h => hsize (BitVec.eq_of_toNat_eq h)
  simp only [stageTick, tickPart, if_pos hi, hD, if_neg hsize', ha, setText_fileName, setCursor, BitVec.ofNat_toNat]
  cases a with
  | ok => exact absurd rfl hne
  | ioerr => rfl
  | path => rfl

/-- A chunk that passes L is not read, hence not written (R191). -/
theorem stageTick_chunkRead_short {i p rem size : Nat} (hrem : rem ≠ 0)
    (h : s.len.toNat < p + min (s.xchunk : Nat) rem) :
    stageTick ⟨c, .chunkRead i p rem size⟩ s = some (raise c ⟨.srcShort, indexWord i,
      BitVec.ofNat 64 (min (s.xchunk : Nat) rem), BitVec.ofNat 64 (s.len.toNat - p), BitVec.ofNat 64 p⟩ s) := by
  simp only [stageTick, tickChunkRead, if_neg hrem, memRead_short h]

/-- DstWrite answered IOERR: the destinations stay as they were (R192, log entry 13). -/
theorem stageTick_chunkWrite_fails {i p rem size : Nat} {B : List Byte} {rest : List WriteAnswer}
    (ha : s.writeAnswers = .ioerr :: rest) :
    stageTick ⟨c, .chunkWrite i p rem size B⟩ s = some
      (raise c ⟨.dstWrite, indexWord i, BitVec.ofNat 64 B.length, 0#64, BitVec.ofNat 64 p⟩
        { s with writeAnswers := rest, ev := s.ev ++ [.dstWrite B] }) := by
  simp only [stageTick, tickChunkWrite, ha]
  rfl

/-- While the host is silent a stage that raises an error ends the run in at most four steps: its own, and the error
entry's three (R70, R236). -/
theorem run_of_raise {u : State} {f : Flight} {e : ErrInfo} (hin : s.inbox = []) (hinit : s.initPending = false)
    (hf : s.flight = some f) (ht : stageTick f s = some (raise c e u)) :
    ∃ k, k ≤ 4 ∧ Host.Core.run Sys2Proof.core k s = .next (failedWith e { u with awaiting := false }) := by
  have hcalm : Calm { u with awaiting := false } := ⟨rfl, (stageTick_untouched ht).initPending.trans hinit⟩
  obtain ⟨k, hk, hticks⟩ := raise_ticks c e _ hcalm
  exact ⟨k + 1, Nat.succ_le_succ hk, run_of_ticks (.head (engineTick_stage hf hinit ht) hticks) hin⟩

end Failures

/-- Settles O44: each of the three stages raises its error, and the error entry follows. -/
theorem failedTransactionsEndTheRun : Obligations.FailedTransactionsEndTheRun :=
  ⟨fun _ _ _ _ _ hin hinit hf hi hsize ha hne => run_of_raise hin hinit hf (stageTick_part_fails hi rfl hsize ha hne),
    fun _ _ _ _ _ _ hin hinit hf hrem h => run_of_raise hin hinit hf (stageTick_chunkRead_short hrem h),
    fun _ _ _ _ _ _ _ _ hin hinit hf ha => run_of_raise hin hinit hf (stageTick_chunkWrite_fails ha)⟩

end Sys2Proof.Machine

namespace Sys2Proof.Machine

/-! The chunks of one payload (R188) and the percentages reported after them (R189). -/

/-- A chunk loop with enough rounds ends with nothing left, or takes a chunk of at most x bytes and goes on. -/
theorem chunk_induction {x : Nat} (hx : 0 < x) {motive : (n : Nat) → (B : List Byte) → B.length ≤ n → Prop}
    (done : ∀ n h, motive n [] h)
    (chunk : ∀ n B h h', B ≠ [] → motive n (B.drop x) h' → motive (n + 1) B h) :
    ∀ n B h, motive n B h
  | n, [], h => done n h
  | n + 1, b :: B, h => by
    have hdrop : ((b :: B).drop x).length ≤ n := by
      rw [List.length_drop, List.length_cons] at *
      omega
    exact chunk n (b :: B) h hdrop (List.cons_ne_nil b B) (chunk_induction hx done chunk n _ hdrop)

/-- The bytes of a DstWrite. -/
def writtenChunk : Event → Option (List Byte)
  | .dstWrite b => some b
  | _ => none

/-- The percentage of a Progress. -/
def reportedPct : Event → Option Nat
  | .progress _ pct => some pct.toNat
  | _ => none

/-- The chunks that at most n rounds of the chunk loop write (R188). -/
def chunkWrites (idx : Word32) (size x n : Nat) (B : List Byte) : List (List Byte) :=
  (chunkEvents idx size x n B).filterMap writtenChunk

/-- The percentages that at most n rounds of the chunk loop report (R189). -/
def chunkPcts (idx : Word32) (size x n : Nat) (B : List Byte) : List Nat :=
  (chunkEvents idx size x n B).filterMap reportedPct

section Chunks

variable {idx : Word32} {size x n : Nat} {B : List Byte}

theorem chunkEvents_nil : chunkEvents idx size x n [] = [] := by
  cases n <;> rfl

theorem chunkEvents_succ (hB : B ≠ []) : chunkEvents idx size x (n + 1) B =
    .dstWrite (B.take x) :: .progress idx (BitVec.ofNat 7 (progressPct (B.length - x) size))
      :: chunkEvents idx size x n (B.drop x) :=
  if_neg hB

@[simp] theorem chunkWrites_nil : chunkWrites idx size x n [] = [] := by
  rw [chunkWrites, chunkEvents_nil, List.filterMap_nil]

@[simp] theorem chunkPcts_nil : chunkPcts idx size x n [] = [] := by
  rw [chunkPcts, chunkEvents_nil, List.filterMap_nil]

theorem chunkWrites_succ (hB : B ≠ []) :
    chunkWrites idx size x (n + 1) B = B.take x :: chunkWrites idx size x n (B.drop x) := by
  rw [chunkWrites, chunkEvents_succ hB]
  rfl

theorem chunkPcts_succ (hB : B ≠ []) : chunkPcts idx size x (n + 1) B =
    progressPct (B.length - x) size :: chunkPcts idx size x n (B.drop x) := by
  rw [← toNat_progressPct, chunkPcts, chunkEvents_succ hB]
  rfl

/-- One chunk fewer is left after each round. -/
theorem chunks_left {rem x : Nat} (hx : 0 < x) (hrem : 0 < rem) :
    (rem - x + x - 1) / x + 1 = (rem + x - 1) / x := by
  obtain hlast | hmore := Nat.le_total rem x
  · rw [Nat.sub_eq_zero_of_le hlast, Nat.div_eq_of_lt (by omega), show rem + x - 1 = (rem - 1) + x by omega,
      Nat.add_div_right _ hx, Nat.div_eq_of_lt (by omega)]
  · rw [Nat.sub_add_cancel hmore, show rem + x - 1 = (rem - 1) + x by omega, Nat.add_div_right _ hx]

theorem flatten_chunkWrites (hx : 0 < x) (h : B.length ≤ n) : (chunkWrites idx size x n B).flatten = B := by
  induction n, B, h using chunk_induction hx with
  | done n h => rw [chunkWrites_nil, List.flatten_nil]
  | chunk n B h h' hB ih => rw [chunkWrites_succ hB, List.flatten_cons, ih, List.take_append_drop]

theorem length_chunkWrites (hx : 0 < x) (h : B.length ≤ n) :
    (chunkWrites idx size x n B).length = (B.length + x - 1) / x := by
  induction n, B, h using chunk_induction hx with
  | done n h =>
    have hnone : (0 + x - 1) / x = 0 := Nat.div_eq_of_lt (by omega)
    rw [chunkWrites_nil]
    exact hnone.symm
  | chunk n B h h' hB ih =>
    rw [chunkWrites_succ hB, List.length_cons, ih, List.length_drop, chunks_left hx (List.length_pos_iff.2 hB)]

theorem length_chunkPcts (hx : 0 < x) (h : B.length ≤ n) :
    (chunkPcts idx size x n B).length = (chunkWrites idx size x n B).length := by
  induction n, B, h using chunk_induction hx with
  | done n h => rw [chunkPcts_nil, chunkWrites_nil]; rfl
  | chunk n B h h' hB ih => rw [chunkPcts_succ hB, chunkWrites_succ hB, List.length_cons, List.length_cons, ih]

theorem chunkWrites_bounds (hx : 0 < x) (h : B.length ≤ n) :
    ∀ b ∈ chunkWrites idx size x n B, 1 ≤ b.length ∧ b.length ≤ x := by
  induction n, B, h using chunk_induction hx with
  | done n h => rw [chunkWrites_nil]; exact nofun
  | chunk n B h h' hB ih =>
    have hpos := List.length_pos_iff.2 hB
    rw [chunkWrites_succ hB, List.forall_mem_cons, List.length_take]
    exact ⟨⟨by omega, by omega⟩, ih⟩

/-- A chunk with another one after it is full. -/
theorem chunkWrites_dropLast (hx : 0 < x) (h : B.length ≤ n) :
    ∀ b ∈ (chunkWrites idx size x n B).dropLast, b.length = x := by
  induction n, B, h using chunk_induction hx with
  | done n h => rw [chunkWrites_nil]; exact nofun
  | chunk n B h h' hB ih =>
    rw [chunkWrites_succ hB]
    by_cases hlast : B.drop x = []
    · rw [hlast, chunkWrites_nil]; exact nofun
    · have hmore : x < B.length := by rwa [List.drop_eq_nil_iff, Nat.not_le] at hlast
      have hrest : chunkWrites idx size x n (B.drop x) ≠ [] := fun hnil =>
        hlast (by rw [← flatten_chunkWrites (idx := idx) (size := size) hx h', hnil, List.flatten_nil])
      rw [List.dropLast_cons_of_ne_nil hrest, List.forall_mem_cons, List.length_take]
      exact ⟨by omega, ih⟩

/-- Every percentage is that of fewer bytes than the loop began with. -/
theorem chunkPcts_mem (hx : 0 < x) (h : B.length ≤ n) :
    ∀ q ∈ chunkPcts idx size x n B, ∃ rem, rem < B.length ∧ q = progressPct rem size := by
  induction n, B, h using chunk_induction hx with
  | done n h => rw [chunkPcts_nil]; exact nofun
  | chunk n B h h' hB ih =>
    have hpos := List.length_pos_iff.2 hB
    rw [chunkPcts_succ hB, List.forall_mem_cons]
    refine ⟨⟨_, by omega, rfl⟩, fun q hq => ?_⟩
    obtain ⟨rem, hrem, hq⟩ := ih q hq
    exact ⟨rem, by rw [List.length_drop] at hrem; omega, hq⟩

/-- The fewer bytes are left, the higher the percentage (R189). -/
theorem progressPct_antitone {rem rem' : Nat} (h : rem ≤ rem') : progressPct rem' size ≤ progressPct rem size :=
  Nat.sub_le_sub_left (Nat.div_le_div_right (Nat.mul_le_mul_left 100 h)) 100

theorem progressPct_zero : progressPct 0 size = 100 := by
  simp [progressPct]

theorem chunkPcts_pairwise (hx : 0 < x) (h : B.length ≤ n) : (chunkPcts idx size x n B).Pairwise (· ≤ ·) := by
  induction n, B, h using chunk_induction hx with
  | done n h => rw [chunkPcts_nil]; exact .nil
  | chunk n B h h' hB ih =>
    rw [chunkPcts_succ hB]
    refine .cons (fun q hq => ?_) ih
    obtain ⟨rem, hrem, rfl⟩ := chunkPcts_mem hx h' q hq
    rw [List.length_drop] at hrem
    exact progressPct_antitone hrem.le

/-- The last chunk leaves nothing, which is 100 percent. -/
theorem chunkPcts_getLast? (hx : 0 < x) (h : B.length ≤ n) (hB : B ≠ []) :
    (chunkPcts idx size x n B).getLast? = some 100 := by
  induction n, B, h using chunk_induction hx with
  | done n h => exact absurd rfl hB
  | chunk n B h h' _ ih =>
    rw [chunkPcts_succ hB, List.getLast?_cons]
    by_cases hlast : B.drop x = []
    · rw [hlast, chunkPcts_nil, Nat.sub_eq_zero_of_le (List.drop_eq_nil_iff.1 hlast), progressPct_zero]
      rfl
    · rw [ih hlast, Option.getD_some]

end Chunks

/-- Settles O43: each property by induction on the rounds of the chunk loop. -/
theorem chunksCoverThePayload : Obligations.ChunksCoverThePayload := by
  intro idx x B hB _
  have hx : 0 < (x : Nat) := x.pos
  have h : B.length ≤ B.length := Nat.le_refl _
  exact ⟨flatten_chunkWrites hx h, length_chunkWrites hx h, chunkWrites_dropLast hx h, chunkWrites_bounds hx h,
    length_chunkPcts hx h, fun q hq => by
      obtain ⟨rem, hrem, rfl⟩ := chunkPcts_mem hx h q hq
      exact ⟨progressPct_pos hrem, progressPct_le _ _⟩,
    chunkPcts_pairwise hx h, chunkPcts_getLast? hx h hB⟩

end Sys2Proof.Machine

namespace Sys2Proof.Machine

/-! Acceptance of a word written to CMD (R205, R206, R233, R234): by the word, then by PHASE. -/

/-! The word -/

/-- A word that decodes is run as its command. -/
theorem step_decoded {s : State} {w : Word32} {rest : List HostAct} {i : Instr} (hin : s.inbox = .write 0x000 w :: rest)
    (hw : decode w = .ok i) : step s = exec i { s with inbox := rest } := by
  obtain ⟨j, hj, hs⟩ | ⟨⟨e, he⟩, _⟩ := step_command (w := w) hin rfl
  · cases hw.symm.trans hj
    exact hs
  · cases hw.symm.trans he

/-- A word that encodes no legal command is turned away as illegal: every word that decodes is an encoding. -/
theorem step_illegalWord {s : State} {w : Word32} {rest : List HostAct} (hin : s.inbox = .write 0x000 w :: rest)
    (hillegal : ∀ i : Instr, i.wf = true → encode i ≠ w) :
    step s = .next (acceptIllegal w { s with inbox := rest }) := by
  obtain ⟨i, hi, _⟩ | ⟨_, hs⟩ := step_command (w := w) hin rfl
  · obtain ⟨hwf, hencode⟩ := decodedWordIsItsEncoding w i hi
    exact absurd hencode (hillegal i hwf)
  · exact hs

/-- The one word of INIT (R88). -/
theorem ne_init_of_decode {w : Word32} {i : Instr} (hw : decode w = .ok i) (hne : w ≠ 0x0000003F#32) : i ≠ .init := by
  rintro rfl
  obtain ⟨_, hencode⟩ := decodedWordIsItsEncoding w _ hw
  exact hne hencode.symm

/-! What PHASE makes of it -/

theorem acceptIllegal_failed (w : Word32) {s : State} (hp : s.phase = .failed) : acceptIllegal w s = s := by
  simp only [acceptIllegal, hp]

theorem acceptIllegal_busy (w : Word32) {s : State} (hb : s.busy = true) : acceptIllegal w s = refuseBusy s := by
  obtain ⟨hp, _⟩ | ⟨_, ht⟩ | ⟨hp, _⟩ := acceptIllegal_cases w s
  · exact absurd hp (phase_ne_failed_of_busy hb)
  · exact ht
  · rw [State.busy, hp] at hb
    cases hb

/-- While BUSY = 1 a command other than INIT only sets OVR (R205, R207). -/
theorem exec_busy {i : Instr} {s : State} (hi : i ≠ .init) (hb : s.busy = true) : exec i s = .next (refuseBusy s) := by
  obtain ⟨start, _, _, he⟩ | he := exec_uniform hi
  · rw [he, accept_busy i start hb]
  · rw [he, acceptIllegal_busy _ hb]

/-- In FAILED a command other than INIT changes nothing (R205, R215). -/
theorem exec_failed {i : Instr} {s : State} (hi : i ≠ .init) (hp : s.phase = .failed) : exec i s = .next s := by
  obtain ⟨start, _, _, he⟩ | he := exec_uniform hi
  · rw [he, accept_failed i start hp]
  · rw [he, acceptIllegal_failed _ hp]

/-- While BUSY = 1 a word other than INIT written to CMD, legal or not, only sets OVR. -/
theorem step_word_busy {s : State} {w : Word32} {rest : List HostAct} (hin : s.inbox = .write 0x000 w :: rest)
    (hne : w ≠ 0x0000003F#32) (hb : s.busy = true) : step s = .next (refuseBusy { s with inbox := rest }) := by
  obtain ⟨i, hi, hs⟩ | ⟨_, hs⟩ := step_command (w := w) hin rfl
  · rw [hs, exec_busy (s := { s with inbox := rest }) (ne_init_of_decode hi hne) hb]
  · rw [hs, acceptIllegal_busy w (s := { s with inbox := rest }) hb]

/-- In FAILED a word other than INIT written to CMD, legal or not, changes nothing. -/
theorem step_word_failed {s : State} {w : Word32} {rest : List HostAct} (hin : s.inbox = .write 0x000 w :: rest)
    (hne : w ≠ 0x0000003F#32) (hp : s.phase = .failed) : step s = .next { s with inbox := rest } := by
  obtain ⟨i, hi, hs⟩ | ⟨_, hs⟩ := step_command (w := w) hin rfl
  · rw [hs, exec_failed (s := { s with inbox := rest }) (ne_init_of_decode hi hne) hp]
  · rw [hs, acceptIllegal_failed w (s := { s with inbox := rest }) hp]

/-- In IDLE a command without its milestone raises CmdError(SEQUENCE) (R205). -/
theorem accept_without {c : Instr} {m : Milestone} {s : State} (start : State → State) (hp : s.phase = .idle)
    (hpre : precondition c = some m) (hm : m.isSet s = false) :
    accept c start s = failedWith (sequenceInfo m (encode c)) s :=
  accept_missing start hp (by rw [hpre, missing, hm]; rfl)

/-- In IDLE, with a host that goes on making accesses, a command that lacks no milestone is left at its start. -/
theorem accept_starts {c : Instr} {start : State → State} {s : State} (hp : s.phase = .idle)
    (hloud : hostQuiet s = false) (hm : missing (precondition c) s = none) (hframe : Untouched s (start s)) :
    accept c start s = start s := by
  have hloud' : hostQuiet (start s) = false := by
    rw [hostQuiet] at hloud ⊢
    rwa [hframe.inbox]
  rw [accept_idle hp hm, settle_notQuiet hloud']

/-! The statements -/

/-- The word at ERR after an error entry is the kind and the cause (R227). -/
theorem errWord_failedWith {e : ErrInfo} {c : Cause} (h : e.cause = c) (s : State) :
    errWord (failedWith e s) = c.kind.code.zeroExtend 32 ||| (c.code.zeroExtend 32 <<< 8) := by
  subst h
  rfl

/-- Settles O5: the act at the head of the inbox is a write to CMD, and its word decodes to i. -/
theorem stepRunsTheWordWritten : Obligations.StepRunsTheWordWritten := fun _ _ _ _ hin hw => step_decoded hin hw

/-- Settles O6: a word that is no encoding does not decode, and an illegal word is answered by PHASE. -/
theorem illegalWordIsReportedOnlyInIdle : Obligations.IllegalWordIsReportedOnlyInIdle := by
  intro s w rest hin hillegal
  rw [step_illegalWord hin hillegal]
  refine ⟨fun hp => ?_, fun hb => ?_, fun hp => ?_, fun t => ?_⟩
  · rw [acceptIllegal_idle w (s := { s with inbox := rest }) hp]
    rfl
  · rw [acceptIllegal_busy w (s := { s with inbox := rest }) hb]
    rfl
  · rw [acceptIllegal_failed w (s := { s with inbox := rest }) hp]
  · exact errWord_failedWith (c := .illegal) rfl t

/-- Settles O7: each command's precondition is not met, and the mask and the word are its own. -/
theorem missingMilestoneIsReported : Obligations.MissingMilestoneIsReported := by
  refine fun s hp => ⟨fun hm => ?_, fun hm => ?_, fun hm => ?_, fun hm => ?_, fun e he => ?_⟩
  · exact congrArg _ (accept_without (c := .valStruct) (m := .hv) _ hp rfl hm)
  · exact congrArg _ (accept_without (c := .valCksum) (m := .sv) _ hp rfl hm)
  · exact congrArg _ (accept_without (c := .ptDecode) (m := .sv) _ hp rfl hm)
  · exact congrArg _ (accept_without (c := .extract) (m := .tv) _ hp rfl hm)
  · exact errWord_failedWith he s

/-- The magic decides whether CK_BODY starts with region 1 (R171). -/
theorem beginCksum_phase (c : Instr) (s : State) :
    (beginCksum c s).phase = if hdrMagic s.himg = 0xFFFAFFFA#32 then .ck1 else .ck2 := by
  simp only [beginCksum, zext_magic]
  split <;> rfl

theorem beginCksum_held (c : Instr) (s : State) : (beginCksum c s).held = s.held := by
  unfold beginCksum
  split <;> rfl

/-- What the start of a command in phase ph leaves, as R205 and R23 say it. -/
def StartsIn (ph : Phase) (s t : State) : Prop := t.phase = ph ∧ ph.busy = true ∧ t.ev = s.ev ∧ t.held = s.held

/-- A command that starts in phase ph and lacks no milestone is in flight there after its acceptance. -/
theorem accept_startsIn {c : Instr} {start : State → State} {s : State} {ph : Phase} (hp : s.phase = .idle)
    (hloud : hostQuiet s = false) (hm : missing (precondition c) s = none) (hframe : Untouched s (start s))
    (hstart : StartsIn ph s (start s)) :
    ∃ t, Host.Outcome.next (accept c start s) = (.next t : Host.Outcome State Fault Refusal)
      ∧ t.phase = ph ∧ t.busy = true ∧ t.ev = s.ev ∧ t.held = s.held ∧ t.inbox = s.inbox := by
  obtain ⟨hphase, hbusy, hev, hheld⟩ := hstart
  rw [accept_starts hp hloud hm hframe]
  exact ⟨_, rfl, hphase, by rw [State.busy, hphase, hbusy], hev, hheld, hframe.inbox⟩

/-- Settles O12: command by command, the start of its first stage. -/
theorem acceptedCommandLeavesIdle : Obligations.AcceptedCommandLeavesIdle := by
  intro s i ph hp hloud hwf hcase
  obtain ⟨⟨b, hi⟩, rfl⟩ | ⟨⟨n, rfl⟩, rfl⟩ | ⟨hi, rfl⟩ | ⟨rfl, hhv, rfl⟩ | ⟨rfl, hsv, rfl⟩ | ⟨rfl, hsv, rfl⟩
    | ⟨rfl, htv, rfl⟩ := hcase
  · obtain rfl | rfl | rfl | rfl | rfl := hi <;>
      exact accept_startsIn hp hloud rfl (beginStage_untouched _ _ _ s) ⟨rfl, rfl, rfl, rfl⟩
  · rw [exec_rdText_legal (textLengthLegal_iff.1 hwf)]
    exact accept_startsIn hp hloud rfl (beginStage_untouched _ _ _ s) ⟨rfl, rfl, rfl, rfl⟩
  · obtain rfl | ⟨v, rfl⟩ := hi <;>
      exact accept_startsIn hp hloud rfl (beginHdr_untouched _ s) ⟨rfl, rfl, rfl, rfl⟩
  · exact accept_startsIn hp hloud (missing_none_of_isSet (c := .valStruct) rfl hhv) (beginStruct_untouched _ s)
      ⟨rfl, rfl, rfl, rfl⟩
  · refine accept_startsIn hp hloud (missing_none_of_isSet (c := .valCksum) rfl hsv) (beginCksum_untouched _ s)
      ⟨beginCksum_phase _ s, ?_, beginCksum_ev _ s, beginCksum_held _ s⟩
    split <;> rfl
  · exact accept_startsIn hp hloud (missing_none_of_isSet (c := .ptDecode) rfl hsv) (beginTable_untouched _ s)
      ⟨rfl, rfl, rfl, rfl⟩
  · exact accept_startsIn hp hloud (missing_none_of_isSet (c := .extract) rfl htv) (beginExtract_untouched _ s)
      ⟨rfl, rfl, rfl, rfl⟩

end Sys2Proof.Machine

namespace Sys2Proof.Machine

/-! Register writes, OVR and FAILED (R207, R208, R215): what the host's acts change while BUSY = 1 and in FAILED. -/

/-! Register writes (R207, R208) -/

theorem writeRegister_busy (off : Nat) (v : Word32) {s : State} (hb : s.busy = true) :
    writeRegister off v s = refuseBusy s := by
  simp only [writeRegister, hb, if_true]

theorem writeRegister_notBusy (off : Nat) (v : Word32) {s : State} (hb : s.busy = false) :
    writeRegister off v s =
      if off = 0x028 then { s with arg := s.arg.extractLsb' 32 32 ++ v }
      else if off = 0x02C then { s with arg := v ++ s.arg.extractLsb' 0 32 }
      else if off = 0x054 then { s with ptSel := v }
      else s := by
  simp only [writeRegister, hb, Bool.false_eq_true, if_false]

/-- Settles O10: the write is `writeRegister`'s, in a state that is not busy. -/
theorem idleWritesTakeEffect : Obligations.IdleWritesTakeEffect := fun s off v rest hin hb ha hcmd => by
  rw [step_write hin hcmd ha, writeRegister_notBusy off v (s := { s with inbox := rest }) hb]

/-! OVR stays set (R207) -/

/-- OVR is set and no INIT is pending that would clear it. -/
def OvrSet (s : State) : Prop := s.ovr = true ∧ s.initPending = false

theorem OvrSet.of_untouched {s t : State} (h : OvrSet s) (hframe : Untouched s t) : OvrSet t :=
  ⟨hframe.ovr.trans h.1, hframe.initPending.trans h.2⟩

theorem engineTick_ovrSet {s t : State} (h : OvrSet s) (ht : engineTick s = some t) : OvrSet t := by
  obtain ⟨f, _, ⟨u, _, hframe, ⟨_, rfl⟩ | ⟨hpend, _⟩⟩ | ⟨_, _, rfl⟩⟩ := engineTick_cases ht
  · exact (h.of_untouched hframe :)
  · exact absurd hpend (by simp [h.2])
  · exact h

theorem engineStep_ovrSet {s t : State} (h : OvrSet s) (ht : engineStep s = .next t) : OvrSet t := by
  obtain ⟨u, hu, he⟩ | he | ⟨_, _, he⟩ := engineStep_cases s <;> cases he.symm.trans ht
  · exact engineTick_ovrSet h hu
  · exact h

theorem settle_ovrSet {s : State} (h : OvrSet s) : OvrSet (settle s) := by
  unfold settle
  split
  · exact drain_induct (fun _ _ => engineTick_ovrSet) _ h
  · exact h

theorem acceptIllegal_ovrSet (w : Word32) {s : State} (h : OvrSet s) : OvrSet (acceptIllegal w s) := by
  obtain ⟨_, ht⟩ | ⟨_, ht⟩ | ⟨_, ht⟩ := acceptIllegal_cases w s <;> rw [ht]
  · exact h
  · exact ⟨rfl, h.2⟩
  · exact h

theorem exec_ovrSet {i : Instr} {s t : State} (hi : i ≠ .init) (h : OvrSet s) (ht : exec i s = .next t) : OvrSet t := by
  obtain ⟨start, hstart, rfl⟩ | rfl := exec_cases hi ht
  · obtain ⟨_, ht⟩ | ⟨_, ht⟩ | ⟨m, _, _, ht⟩ | ⟨_, _, ht⟩ := accept_cases i start s <;> rw [ht]
    · exact h
    · exact ⟨rfl, h.2⟩
    · exact h
    · exact settle_ovrSet (h.of_untouched (hstart s))
  · exact acceptIllegal_ovrSet _ h

theorem writeRegister_ovrSet (off : Nat) (v : Word32) {s : State} (h : OvrSet s) : OvrSet (writeRegister off v s) := by
  unfold writeRegister
  split_ifs
  · exact ⟨rfl, h.2⟩
  all_goals exact h

theorem readRegister_ovrSet (off : Nat) {s : State} (h : OvrSet s) : OvrSet (readRegister off s) := by
  unfold readRegister
  split
  · exact h
  · split_ifs <;> exact h

/-- No act but hardware reset clears OVR, a write to CMD aside. -/
theorem hostStep_ovrSet {act : HostAct} {rest : List HostAct} {s t : State} (hact : isResetAct act = false)
    (h : OvrSet s) (ht : hostStep act rest s = .next t) : OvrSet t := by
  cases act with
  | write off v =>
    simp only [hostStep] at ht
    split at ht <;> cases ht
    exact writeRegister_ovrSet off v h
  | read off =>
    simp only [hostStep] at ht
    split at ht <;> cases ht
    exact readRegister_ovrSet off h
  | narrow off => cases ht
  | tick => exact engineStep_ovrSet (s := { s with inbox := rest }) h ht
  | wait =>
    simp only [hostStep] at ht
    split at ht
    · exact engineStep_ovrSet h ht
    · cases ht; exact h
  | present cells len =>
    simp only [hostStep] at ht
    split at ht <;> cases ht
    exact h
  | answerOpen a => cases ht; exact h
  | answerWrite a => cases ht; exact h
  | reset => cases hact

/-- A write to CMD that is no reset act carries no INIT word. -/
theorem ne_init_of_not_resetAct {w : Word32} (h : isResetAct (.write 0x000 w) = false) : w ≠ 0x0000003F#32 := by
  rintro rfl
  cases h

theorem step_ovrSet {s t : State} (hact : ∀ act rest, s.inbox = act :: rest → isResetAct act = false) (h : OvrSet s)
    (ht : step s = .next t) : OvrSet t := by
  cases hin : s.inbox with
  | nil => exact engineStep_ovrSet h (step_quiet hin ▸ ht)
  | cons act rest =>
    have hact := hact act rest hin
    cases hc : commandWord? act with
    | none => exact hostStep_ovrSet hact h (step_act hin hc ▸ ht)
    | some w =>
      obtain rfl := write_of_commandWord hc
      obtain ⟨i, hi, hs⟩ | ⟨_, hs⟩ := step_command hin hc
      · have hne := ne_init_of_decode hi (ne_init_of_not_resetAct hact)
        exact exec_ovrSet (s := { s with inbox := rest }) hne h (hs ▸ ht)
      · cases hs.symm.trans ht
        exact acceptIllegal_ovrSet w (s := { s with inbox := rest }) h

/-- Settles O8: a write to CMD is a word, any other is `writeRegister`'s; and OVR is kept act by act. -/
theorem busyWritesOnlySetOvr : Obligations.BusyWritesOnlySetOvr := by
  refine ⟨fun s off v rest hin hb ha hne => ?_, fun s t hovr hinit hact ht => (step_ovrSet hact ⟨hovr, hinit⟩ ht).1⟩
  by_cases hcmd : off = 0x000
  · subst hcmd
    exact step_word_busy hin (fun hv => hne ⟨rfl, hv⟩) hb
  · rw [step_write hin hcmd ha, writeRegister_busy off v (s := { s with inbox := rest }) hb]
    rfl

/-! FAILED (R215) -/

/-- At most what the host writes, presents, answers, reads and does next has changed. -/
def OnlyHostChanges (s t : State) : Prop :=
  t = { s with inbox := t.inbox, arg := t.arg, ptSel := t.ptSel, reads := t.reads, src := t.src, len := t.len,
               openAnswers := t.openAnswers, writeAnswers := t.writeAnswers }

/-- With no command in flight, and BUSY = 0, the engine does nothing. -/
theorem engineStep_resting {s : State} (hf : s.flight = none) (hb : s.busy = false) : engineStep s = .next s := by
  simp [engineStep, engineTick_noFlight hf, hb]

theorem writeRegister_onlyHostChanges (off : Nat) (v : Word32) {s : State} (hb : s.busy = false) :
    OnlyHostChanges s (writeRegister off v s) := by
  rw [writeRegister_notBusy off v hb]
  split_ifs <;> rfl

theorem readRegister_onlyHostChanges (off : Nat) {s : State} (hb : s.busy = false) :
    OnlyHostChanges s (readRegister off s) := by
  rw [readRegister_idle hb]
  rfl

/-- With no command in flight, and BUSY = 0, an act other than hardware reset or a write to CMD changes only what is the
host's. -/
theorem hostStep_onlyHostChanges {act : HostAct} {rest : List HostAct} {s t : State} (hact : isResetAct act = false)
    (hf : s.flight = none) (hb : s.busy = false) (ht : hostStep act rest s = .next t) : OnlyHostChanges s t := by
  cases act with
  | write off v =>
    simp only [hostStep] at ht
    split at ht <;> cases ht
    exact (writeRegister_onlyHostChanges off v (s := { s with inbox := rest }) hb :)
  | read off =>
    simp only [hostStep] at ht
    split at ht <;> cases ht
    exact (readRegister_onlyHostChanges off (s := { s with inbox := rest }) hb :)
  | narrow off => cases ht
  | tick =>
    cases (engineStep_resting (s := { s with inbox := rest }) hf hb).symm.trans ht
    rfl
  | wait =>
    simp only [hostStep, hb, Bool.false_eq_true, if_false] at ht
    cases ht
    rfl
  | present cells len =>
    simp only [hostStep] at ht
    split at ht <;> cases ht
    rfl
  | answerOpen a => cases ht; rfl
  | answerWrite a => cases ht; rfl
  | reset => cases hact

theorem step_onlyHostChanges {s t : State} (hp : s.phase = .failed) (hf : s.flight = none)
    (hact : ∀ act rest, s.inbox = act :: rest → isResetAct act = false) (ht : step s = .next t) :
    OnlyHostChanges s t := by
  have hb : s.busy = false := by rw [State.busy, hp]; rfl
  cases hin : s.inbox with
  | nil =>
    cases ((step_quiet hin).trans (engineStep_resting hf hb)).symm.trans ht
    rfl
  | cons act rest =>
    have hact := hact act rest hin
    cases hc : commandWord? act with
    | none => exact hostStep_onlyHostChanges hact hf hb (step_act hin hc ▸ ht)
    | some w =>
      obtain rfl := write_of_commandWord hc
      cases (step_word_failed hin (ne_init_of_not_resetAct hact) hp).symm.trans ht
      rfl

/-- Settles O9: a word is ignored, and every other act of the host finds no command in flight. -/
theorem failedRunsNothing : Obligations.FailedRunsNothing :=
  ⟨fun _ _ _ hp hin hne => step_word_failed hin hne hp, fun _ _ hp hf hact ht => step_onlyHostChanges hp hf hact ht⟩

end Sys2Proof.Machine

namespace Sys2Proof.Machine

/-! INIT (R216, U15): the handles let go of, every register reset, at once or after the answer. -/

/-- INIT's state change: DstClose and SrcRelease as the handles ask, then the reset values. -/
theorem performInit_eq (s : State) :
    performInit s = resetRegisters { s with ev := s.ev ++ handleEvents s, dopen := false, held := false } := by
  rw [performInit, release_close_eq]

/-- A micro-step that completes with an INIT pending ends in INIT (R216). -/
theorem engineTick_initPending {s t u : State} {f : Flight} (hf : s.flight = some f) (hinit : s.initPending = true)
    (hu : stageTick f s = some u) (ht : engineTick s = some t) : t = performInit { u with awaiting := false } := by
  obtain ⟨g, hg, ⟨v, hv, _, ⟨hpend, _⟩ | ⟨_, rfl⟩⟩ | ⟨hnone, _, _⟩⟩ := engineTick_cases ht
  · cases hinit.symm.trans hpend
  · cases hf.symm.trans hg
    cases hu.symm.trans hv
    rfl
  · cases hf.symm.trans hg
    cases hu.symm.trans hnone

/-- Settles O16: INIT at once, INIT kept pending, and INIT after the micro-step it waits for. -/
theorem initReleasesThenResets : Obligations.InitReleasesThenResets := by
  refine ⟨fun s ha => ?_, fun s ha => execInit_of_awaiting ha, fun s t u f hf hinit hu ht => ?_⟩
  · refine ⟨_, execInit_of_not_awaiting ha, performInit_values s, ?_⟩
    rw [performInit_eq]
    exact ⟨rfl, rfl, rfl, rfl, rfl, rfl, rfl, rfl, rfl, rfl, rfl, rfl⟩
  · rw [engineTick_initPending hf hinit hu ht]
    exact ⟨performInit_values _, by rw [performInit_eq]; rfl⟩

end Sys2Proof.Machine

namespace Sys2Proof.Machine

/-! The extraction as a stage of RUN (R185, R210): the same micro-steps as EXTRACT's, and at most 2^68 of them. -/

/-! What the extraction's stages do -/

/-- The stages of X_BODY and the error entry, which RUN passes through as EXTRACT does. -/
def Stage.ofExtraction : Stage → Bool
  | .part _ | .chunkRead _ _ _ _ | .chunkWrite _ _ _ _ _ | .progress _ _ _ _ | .raising _ => true
  | _ => false

/-- After the last partition (R194). -/
theorem stageTick_part_end {c : Instr} {i : Nat} {s : State} (hi : ¬ i < s.pt.length) :
    stageTick ⟨c, .part i⟩ s = some (complete (releaseIfHeld { s with xd := true })) := by
  simp only [stageTick, tickPart, if_neg hi]

theorem stageTick_chunkRead_close {c : Instr} {i p size : Nat} {s : State} :
    stageTick ⟨c, .chunkRead i p 0 size⟩ s
      = some (goTo c (.part (i + 1)) { s with ev := s.ev ++ [.dstClose], dopen := false }) := rfl

/-- A chunk inside the source is read (R188). -/
theorem stageTick_chunkRead_reads {c : Instr} {i p rem size : Nat} {s : State} (hrem : rem ≠ 0)
    (h : p + min (s.xchunk : Nat) rem ≤ s.len.toNat) :
    stageTick ⟨c, .chunkRead i p rem size⟩ s = some
      (goTo c (.chunkWrite i p rem size (s.src.read p (min (s.xchunk : Nat) rem))) { s with held := true }) := by
  simp only [stageTick, tickChunkRead, if_neg hrem, memRead_ok h]

/-! The command's name changes none of it -/

/-- The command in flight taken for another, at the same micro-step. -/
def asCommand (c : Instr) (s : State) : State := { s with flight := s.flight.map fun f => ⟨c, f.stage⟩ }

theorem asCommand_noFlight {c : Instr} {s : State} (h : s.flight = none) : asCommand c s = s := by
  cases s
  cases h
  rfl

theorem closeIfOpen_asCommand (c : Instr) (s : State) : closeIfOpen (asCommand c s) = asCommand c (closeIfOpen s) := by
  cases h : s.dopen <;> simp [closeIfOpen, asCommand, emit, h]

theorem releaseIfHeld_asCommand (c : Instr) (s : State) :
    releaseIfHeld (asCommand c s) = asCommand c (releaseIfHeld s) := by
  cases h : s.held <;> simp [releaseIfHeld, asCommand, emit, h]

theorem errorStep_asCommand (c : Instr) (e : ErrInfo) (s : State) :
    errorStep e (asCommand c s) = asCommand c (errorStep e s) := by
  by_cases hd : s.dopen = true
  · rw [errorStep, errorStep, if_pos (show (asCommand c s).dopen = true from hd), if_pos hd, closeIfOpen_asCommand]
  · rw [errorStep, errorStep, if_neg (show ¬ (asCommand c s).dopen = true from hd), if_neg hd]
    by_cases hh : s.held = true
    · rw [if_pos (show (asCommand c s).held = true from hh), if_pos hh, releaseIfHeld_asCommand]
    · rw [if_neg (show ¬ (asCommand c s).held = true from hh), if_neg hh]
      rfl

theorem stageTick_part_asCommand (c d : Instr) (i : Nat) (s : State) :
    stageTick ⟨c, .part i⟩ (asCommand c s) = (stageTick ⟨d, .part i⟩ s).map (asCommand c) := by
  by_cases hi : i < s.pt.length
  · by_cases hsize : pdPartitionSize (s.pt.getD i []) = 0#32
    · rw [stageTick_part_zeroSize (s := asCommand c s) hi hsize, stageTick_part_zeroSize hi hsize]
      rfl
    · cases ha : s.openAnswers with
      | nil =>
        rw [stageTick_part_unanswered (s := asCommand c s) hi hsize ha, stageTick_part_unanswered hi hsize ha]
        rfl
      | cons a rest =>
        by_cases hok : a = .ok
        · subst hok
          rw [stageTick_part_ok (s := asCommand c s) hi rfl hsize ha, stageTick_part_ok hi rfl hsize ha]
          rfl
        · rw [stageTick_part_fails (s := asCommand c s) hi rfl hsize ha hok, stageTick_part_fails hi rfl hsize ha hok]
          rfl
  · rw [stageTick_part_end (s := asCommand c s) hi, stageTick_part_end hi]
    change some (complete (releaseIfHeld (asCommand c { s with xd := true }))) = _
    rw [releaseIfHeld_asCommand]
    rfl

theorem stageTick_chunkRead_asCommand (c d : Instr) (i p rem size : Nat) (s : State) :
    stageTick ⟨c, .chunkRead i p rem size⟩ (asCommand c s)
      = (stageTick ⟨d, .chunkRead i p rem size⟩ s).map (asCommand c) := by
  by_cases hrem : rem = 0
  · subst hrem
    rfl
  · by_cases hread : p + min (s.xchunk : Nat) rem ≤ s.len.toNat
    · rw [stageTick_chunkRead_reads (s := asCommand c s) hrem hread, stageTick_chunkRead_reads hrem hread]
      rfl
    · rw [stageTick_chunkRead_short (s := asCommand c s) hrem (Nat.lt_of_not_le hread),
        stageTick_chunkRead_short hrem (Nat.lt_of_not_le hread)]
      rfl

theorem stageTick_chunkWrite_asCommand (c d : Instr) (i p rem size : Nat) (B : List Byte) (s : State) :
    stageTick ⟨c, .chunkWrite i p rem size B⟩ (asCommand c s)
      = (stageTick ⟨d, .chunkWrite i p rem size B⟩ s).map (asCommand c) := by
  cases ha : s.writeAnswers with
  | nil =>
    rw [stageTick_chunkWrite_unanswered (s := asCommand c s) ha, stageTick_chunkWrite_unanswered ha]
    rfl
  | cons a rest =>
    cases a with
    | ok =>
      rw [stageTick_chunkWrite_ok (s := asCommand c s) ha, stageTick_chunkWrite_ok ha]
      rfl
    | ioerr =>
      rw [stageTick_chunkWrite_fails (s := asCommand c s) ha, stageTick_chunkWrite_fails ha]
      rfl

/-- A stage of the extraction does the same for every command. -/
theorem stageTick_asCommand (c d : Instr) {st : Stage} (hst : st.ofExtraction = true) (s : State) :
    stageTick ⟨c, st⟩ (asCommand c s) = (stageTick ⟨d, st⟩ s).map (asCommand c) := by
  cases st with
  | part i => exact stageTick_part_asCommand c d i s
  | chunkRead i p rem size => exact stageTick_chunkRead_asCommand c d i p rem size s
  | chunkWrite i p rem size B => exact stageTick_chunkWrite_asCommand c d i p rem size B s
  | progress i p rem size => rfl
  | raising e => exact congrArg some (errorStep_asCommand c e s)
  | _ => cases hst

/-! How many micro-steps an extraction has left -/

/-- More than the micro-steps of one partition, three for each of its fewer than 2^32 bytes. -/
abbrev partitionBound : Nat := 3 * 2 ^ 32

/-- A bound on the micro-steps of the partitions after number i. -/
def laterPartitions (i : Nat) (s : State) : Nat := (s.pt.length - (i + 1)) * partitionBound

/-- A bound on the micro-steps left of an extraction: those of the bytes still to move, three for each, and of the
partitions still to come; or those of the error entry. -/
def stepsLeft (s : State) : Stage → Nat
  | .part i => (s.pt.length - i) * partitionBound + 4
  | .chunkRead i _ rem _ => laterPartitions i s + 3 * rem + 5
  | .chunkWrite i _ rem _ B => laterPartitions i s + 3 * (rem - B.length) + 7
  | .progress i _ rem _ => laterPartitions i s + 3 * rem + 6
  | .raising _ => s.dopen.toNat + s.held.toNat + 1
  | _ => 0

/-- What a micro-step of the extraction makes of one that stands at stage st of s: it is over, or goes on in the same
PHASE at a stage with fewer micro-steps left. -/
def ExtractionProceeds (s : State) (st : Stage) (u : State) : Prop :=
  u.flight = none ∨ ∃ g, u.flight = some g ∧ g.stage.ofExtraction = true ∧ u.phase = s.phase
    ∧ stepsLeft u g.stage < stepsLeft s st

/-- An error is raised where more micro-steps are left than its entry has. -/
theorem raise_proceeds {c : Instr} {e : ErrInfo} {s u : State} {st : Stage} (hphase : u.phase = s.phase)
    (h : 4 ≤ stepsLeft s st) : ExtractionProceeds s st (raise c e u) := by
  refine .inr ⟨_, rfl, rfl, hphase, Nat.lt_of_lt_of_le ?_ h⟩
  have hopen := u.dopen.toNat_lt
  have hheld := u.held.toNat_lt
  simp only [stepsLeft, raise_dopen, raise_held]
  omega

theorem goTo_proceeds {c : Instr} {s u : State} {st st' : Stage} (hst : st'.ofExtraction = true)
    (hphase : u.phase = s.phase) (h : stepsLeft (goTo c st' u) st' < stepsLeft s st) :
    ExtractionProceeds s st (goTo c st' u) :=
  .inr ⟨_, rfl, hst, hphase, h⟩

/-- A partition still to come, and those after it. -/
theorem stepsLeft_part {i : Nat} {s : State} (hi : i < s.pt.length) :
    stepsLeft s (.part i) = laterPartitions i s + partitionBound + 4 := by
  rw [stepsLeft, laterPartitions, ← Nat.succ_mul]
  congr 2
  omega

theorem stageTick_part_proceeds {c : Instr} {i : Nat} {s u : State} (h : stageTick ⟨c, .part i⟩ s = some u) :
    ExtractionProceeds s (.part i) u := by
  by_cases hi : i < s.pt.length
  · have hleft := stepsLeft_part hi
    by_cases hsize : pdPartitionSize (s.pt.getD i []) = 0#32
    · cases (stageTick_part_zeroSize hi hsize).symm.trans h
      refine goTo_proceeds rfl rfl ?_
      rw [hleft]
      exact Nat.add_lt_add_right (Nat.lt_add_of_pos_right (by decide)) 4
    · cases ha : s.openAnswers with
      | nil => cases (stageTick_part_unanswered hi hsize ha).symm.trans h
      | cons a rest =>
        by_cases hok : a = .ok
        · subst hok
          cases (stageTick_part_ok hi rfl hsize ha).symm.trans h
          have hlt := (pdPartitionSize (s.pt.getD i [])).isLt
          refine .inr ⟨_, rfl, rfl, rfl, ?_⟩
          rw [hleft]
          change laterPartitions i s + 3 * (pdPartitionSize (s.pt.getD i [])).toNat + 5 < _
          simp only [partitionBound]
          omega
        · cases (stageTick_part_fails hi rfl hsize ha hok).symm.trans h
          exact raise_proceeds rfl (by rw [hleft]; omega)
  · cases (stageTick_part_end hi).symm.trans h
    exact .inl rfl

theorem stageTick_chunkRead_proceeds {c : Instr} {i p rem size : Nat} {s u : State}
    (h : stageTick ⟨c, .chunkRead i p rem size⟩ s = some u) : ExtractionProceeds s (.chunkRead i p rem size) u := by
  by_cases hrem : rem = 0
  · subst hrem
    cases h
    refine goTo_proceeds (u := { emit .dstClose s with dopen := false }) rfl rfl ?_
    simp only [stepsLeft, laterPartitions, goTo_pt, emit_pt]
    omega
  · by_cases hread : p + min (s.xchunk : Nat) rem ≤ s.len.toNat
    · cases (stageTick_chunkRead_reads hrem hread).symm.trans h
      have hchunk := s.xchunk.pos
      refine goTo_proceeds rfl rfl ?_
      simp only [stepsLeft, laterPartitions, goTo_pt, Memory.length_read]
      omega
    · cases (stageTick_chunkRead_short hrem (Nat.lt_of_not_le hread)).symm.trans h
      exact raise_proceeds rfl (by simp only [stepsLeft]; omega)

theorem stageTick_chunkWrite_proceeds {c : Instr} {i p rem size : Nat} {B : List Byte} {s u : State}
    (h : stageTick ⟨c, .chunkWrite i p rem size B⟩ s = some u) :
    ExtractionProceeds s (.chunkWrite i p rem size B) u := by
  cases ha : s.writeAnswers with
  | nil => cases (stageTick_chunkWrite_unanswered ha).symm.trans h
  | cons a rest =>
    cases a with
    | ok =>
      cases (stageTick_chunkWrite_ok ha).symm.trans h
      exact .inr ⟨_, rfl, rfl, rfl, Nat.lt_succ_self _⟩
    | ioerr =>
      cases (stageTick_chunkWrite_fails ha).symm.trans h
      exact raise_proceeds rfl (by simp only [stepsLeft]; omega)

/-- Each micro-step of the error entry lets go of a handle, or is the last (R236). -/
theorem errorStep_proceeds {c : Instr} {e : ErrInfo} {s : State} (hf : s.flight = some ⟨c, .raising e⟩) :
    ExtractionProceeds s (.raising e) (errorStep e s) := by
  by_cases hd : s.dopen = true
  · rw [errorStep, if_pos hd, closeIfOpen, if_pos hd]
    exact .inr ⟨_, hf, rfl, rfl, by simp [stepsLeft, hd, emit]⟩
  · rw [errorStep, if_neg hd]
    by_cases hh : s.held = true
    · rw [if_pos hh, releaseIfHeld, if_pos hh]
      exact .inr ⟨_, hf, rfl, rfl, by simp [stepsLeft, hh, emit]⟩
    · rw [if_neg hh]
      exact .inl rfl

theorem stageTick_proceeds {c : Instr} {st : Stage} {s u : State} (hf : s.flight = some ⟨c, st⟩)
    (hst : st.ofExtraction = true) (h : stageTick ⟨c, st⟩ s = some u) : ExtractionProceeds s st u := by
  cases st with
  | part i => exact stageTick_part_proceeds h
  | chunkRead i p rem size => exact stageTick_chunkRead_proceeds h
  | chunkWrite i p rem size B => exact stageTick_chunkWrite_proceeds h
  | progress i p rem size =>
    cases h
    exact goTo_proceeds rfl rfl (Nat.lt_succ_self _)
  | raising e =>
    cases h
    exact errorStep_proceeds hf
  | _ => cases hst

/-! The extraction to its end -/

/-- No INIT is pending, and what is in flight, if anything, is an extraction. -/
structure Extracting (s : State) : Prop where
  noInit : s.initPending = false
  stage : ∀ f, s.flight = some f → s.phase = .extract ∧ f.stage.ofExtraction = true

/-- Twice the micro-steps left, and one more where a transaction may still be put on the port to wait. -/
def extractionLeft (s : State) : Nat := 2 * (s.flight.map fun f => stepsLeft s f.stage).getD 0 + (!s.awaiting).toNat

theorem extractionLeft_of_flight {s : State} {f : Flight} (hf : s.flight = some f) :
    extractionLeft s = 2 * stepsLeft s f.stage + (!s.awaiting).toNat := by
  rw [extractionLeft, hf]
  rfl

/-- After a micro-step of an extraction it is over, or less of it is left. -/
theorem Extracting.tick {s t : State} (h : Extracting s) (ht : engineTick s = some t) :
    Extracting t ∧ (t.flight = none ∨ extractionLeft t < extractionLeft s) := by
  obtain ⟨⟨c, st⟩, hf, ⟨u, hu, hframe, ⟨_, rfl⟩ | ⟨hpend, _⟩⟩ | ⟨_, hawait, rfl⟩⟩ := engineTick_cases ht
  · obtain ⟨hphase, hst⟩ := h.stage _ hf
    have hinit : u.initPending = false := hframe.initPending.trans h.noInit
    obtain hdone | ⟨g, hg, hgst, hgphase, hleft⟩ := stageTick_proceeds hf hst hu
    · exact ⟨⟨hinit, fun f hf => by cases hdone.symm.trans hf⟩, .inl hdone⟩
    · refine ⟨⟨hinit, fun f hf => ?_⟩, .inr ?_⟩
      · cases hg.symm.trans hf
        exact ⟨hgphase.trans hphase, hgst⟩
      · rw [extractionLeft_of_flight hf, extractionLeft_of_flight (s := { u with awaiting := false }) hg]
        change 2 * stepsLeft u g.stage + 1 < 2 * stepsLeft s st + _
        omega
  · cases h.noInit.symm.trans hpend
  · refine ⟨⟨h.noInit, h.stage⟩, .inr ?_⟩
    rw [extractionLeft_of_flight hf, extractionLeft_of_flight (s := { s with awaiting := true }) hf, hawait]
    exact Nat.lt_succ_self _

/-- An extraction performs no more micro-steps than are left of it. -/
theorem Extracting.ends {n : Nat} {s : State} (h : Extracting s) (hn : extractionLeft s < n) :
    ∃ k t, k ≤ n ∧ Ticks k s t ∧ engineTick t = none := by
  induction n generalizing s with
  | zero => exact absurd hn (Nat.not_lt_zero _)
  | succ n ih =>
    cases ht : engineTick s with
    | none => exact ⟨0, s, Nat.zero_le _, .refl s, ht⟩
    | some t =>
      obtain ⟨hext, hdone | hleft⟩ := h.tick ht
      · exact ⟨1, t, Nat.le_add_left 1 n, .one ht, engineTick_noFlight hdone⟩
      · obtain ⟨k, u, hk, hticks, hend⟩ := ih hext (by omega)
        exact ⟨k + 1, u, Nat.succ_le_succ hk, .head ht hticks, hend⟩

/-- A transaction without its answer is put on the port to wait (U15). -/
theorem engineTick_waits {s : State} {f : Flight} (hf : s.flight = some f) (hnone : stageTick f s = none)
    (hawait : s.awaiting = false) : engineTick s = some { s with awaiting := true } := by
  simp [engineTick, hf, hnone, hawait]

/-- The micro-steps of an extraction are those of the same extraction under another command. -/
theorem Extracting.tick_asCommand (c : Instr) {s t : State} (h : Extracting s) (ht : engineTick s = some t) :
    engineTick (asCommand c s) = some (asCommand c t) := by
  obtain ⟨⟨d, st⟩, hf, hcases⟩ := engineTick_cases ht
  have hflight : (asCommand c s).flight = some ⟨c, st⟩ := by rw [asCommand, hf]; rfl
  have hstage := stageTick_asCommand c d (h.stage _ hf).2 s
  obtain ⟨u, hu, _, ⟨_, rfl⟩ | ⟨hpend, _⟩⟩ | ⟨hnone, hawait, rfl⟩ := hcases
  · rw [hu] at hstage
    exact engineTick_stage hflight h.noInit hstage
  · cases h.noInit.symm.trans hpend
  · rw [hnone] at hstage
    exact engineTick_waits hflight hstage hawait

theorem Extracting.ticks_asCommand (c : Instr) {k : Nat} {s t : State} (hticks : Ticks k s t) (h : Extracting s) :
    Extracting t ∧ Ticks k (asCommand c s) (asCommand c t) := by
  induction hticks with
  | refl s => exact ⟨h, .refl _⟩
  | head ht _ ih =>
    obtain ⟨hend, hrest⟩ := ih (h.tick ht).1
    exact ⟨hend, .head (h.tick_asCommand c ht) hrest⟩

/-- An extraction is over where BUSY = 0. -/
theorem Extracting.over {s : State} (h : Extracting s) (hb : s.busy = false) : s.flight = none := by
  cases hf : s.flight with
  | none => rfl
  | some f =>
    rw [State.busy, (h.stage f hf).1] at hb
    cases hb

/-! RUN's extraction -/

/-- A bound on the micro-steps of an extraction of fewer than 2^32 partitions. -/
abbrev extractionBound : Nat := 2 ^ 68

theorem beginExtract_extracting (c : Instr) {s : State} (hinit : s.initPending = false) :
    Extracting (beginExtract c s) :=
  ⟨hinit, fun f hf => by cases hf; exact ⟨rfl, rfl⟩⟩

theorem beginExtract_left (c : Instr) {s : State} (hcount : s.pt.length < 2 ^ 32) :
    extractionLeft (beginExtract c s) < extractionBound := by
  have hpending := (!(beginExtract c s).awaiting).toNat_lt
  have hpartitions : s.pt.length * partitionBound ≤ 2 ^ 32 * partitionBound := Nat.mul_le_mul_right _ hcount.le
  have hleft : extractionLeft (beginExtract c s) =
      2 * (s.pt.length * partitionBound + 4) + (!(beginExtract c s).awaiting).toNat := rfl
  simp only [partitionBound, extractionBound] at *
  omega

/-- EXTRACT that ends with BUSY = 0 ends so within the bound, and RUN's extraction ends in the same state. -/
theorem exec_extract_ends {c : Instr} {s t : State} (hr : Ready s) (htv : s.tv = true) (hcount : s.pt.length < 2 ^ 32)
    (h : exec .extract s = .next t) (hb : t.busy = false) :
    t.flight = none ∧ ∃ k, k ≤ extractionBound ∧ Ticks k (beginExtract c s) t := by
  have hext := beginExtract_extracting .extract hr.noInit
  obtain ⟨k, u, hbound, hticks, hend⟩ := hext.ends (beginExtract_left .extract hcount)
  have hquiet : hostQuiet (beginExtract .extract s) = true := hr.quiet
  have hexec : exec .extract s = .next u := by
    change Host.Outcome.next (accept .extract (beginExtract .extract) s) = _
    rw [accept_idle hr.idle (missing_none_of_isSet (c := .extract) (m := .tv) rfl htv), settle_quiet hquiet,
      hticks.drain_to hend (hbound.trans (Nat.pow_le_pow_right (by decide) (by decide)))]
  cases hexec.symm.trans h
  obtain ⟨hextEnd, hrun⟩ := Extracting.ticks_asCommand c hticks hext
  have hover := hextEnd.over hb
  rw [asCommand_noFlight hover] at hrun
  exact ⟨hover, k, hbound, hrun⟩

end Sys2Proof.Machine

namespace Sys2Proof.Machine

/-! RUN and the five commands (R210-R212, R215): what each body's command ends in, RUN's body reaches too, and
RUN then stands at the start of the body whose command comes next. -/

/-! A body alone and in RUN -/

/-- A bound on the micro-steps of each body but the extraction, its error entry included. -/
abbrev bodyBound : Nat := 2 ^ 65

/-- At most n micro-steps lead from a to t, where no command is in flight. -/
def EndsWithin (n : Nat) (a t : State) : Prop := t.flight = none ∧ ∃ k, k ≤ n ∧ Ticks k a t

/-- A body's command, with outcome o, against RUN's micro-steps from the start a of that body: both end in one error;
or the command leaves a ready state u with property P, and they lead to the start of the next body from u. -/
def SameInRun (o : Host.Outcome State Fault Refusal) (a : State) (P : State → Prop) (next : State → State) : Prop :=
  ∃ u, o = .next u ∧
    (u.phase = .failed ∧ EndsWithin bodyBound a u ∨ Ready u ∧ P u ∧ ∃ k, k ≤ bodyBound ∧ Ticks k a (next u))

/-- A body's micro-steps to a `raise`, and its error entry. -/
theorem endsWithin_of_raise {c : Instr} {e : ErrInfo} {ph : Phase} {st : Stage} {a r : State} (hcalm : Calm r)
    (ht : ∃ k, k ≤ 2 ^ 64 + 2 ^ 20 ∧ Ticks k a (raise c e (beginStage ph c st r))) :
    EndsWithin bodyBound a (failedWith e r) := by
  obtain ⟨k, hk, hticks⟩ := ht
  obtain ⟨j, hj, hentry⟩ := raise_ticks c e (beginStage ph c st r) hcalm
  exact ⟨rfl, k + j, by simp only [bodyBound]; omega, hticks.trans hentry⟩

/-- The command and RUN's body raise the same error with the same registers. -/
theorem SameInRun.raises {o : Host.Outcome State Fault Refusal} {c : Instr} {e : ErrInfo} {ph : Phase} {st : Stage}
    {a r : State} {P : State → Prop} {next : State → State} (ho : o = .next (failedWith e r)) (hcalm : Calm r)
    (ht : ∃ k, k ≤ 2 ^ 64 + 2 ^ 20 ∧ Ticks k a (raise c e (beginStage ph c st r))) : SameInRun o a P next :=
  ⟨_, ho, .inl ⟨rfl, endsWithin_of_raise hcalm ht⟩⟩

/-- The command and RUN's body leave the same registers. -/
theorem SameInRun.passes {o : Host.Outcome State Fault Refusal} {a r : State} {P : State → Prop} {next : State → State}
    (ho : o = .next r) (hr : Ready r) (hP : P r) (ht : ∃ k, k ≤ 2 ^ 64 + 2 ^ 20 ∧ Ticks k a (next r)) :
    SameInRun o a P next := by
  obtain ⟨k, hk, hticks⟩ := ht
  exact ⟨r, ho, .inr ⟨hr, hP, k, by simp only [bodyBound]; omega, hticks⟩⟩

/-! The header and the structural check -/

theorem headerRead_ready {s : State} (hr : Ready s) : Ready (headerRead s) :=
  ⟨hr.idle, hr.noFlight, hr.notAwaiting, hr.noInit, hr.closed, hr.quiet⟩

theorem header_sameInRun (v : Bool) {s : State} (hr : Ready s) :
    SameInRun (exec .hdrDecode s) (beginHdr (.run v) s) (fun u => u.hv = true ∧ 2124 ≤ u.len.toNat)
      (beginStruct (.run v)) := by
  by_cases hl : 2124 ≤ s.len.toNat
  · exact .passes (exec_hdrDecode_reads hr hl) (headerRead_ready hr) ⟨rfl, hl⟩
      ⟨1, by decide, run_header_ticks v hr.calm hl⟩
  · have hshort := Nat.lt_of_not_le hl
    exact .raises (c := .run v) (ph := .hdr) (st := .hdr) (exec_hdrDecode_short hr hshort) hr.calm
      ⟨1, by decide, .stage (s := beginHdr (.run v) s) hr.calm rfl (hdr_short (.run v) (beginHdr (.run v) s) hshort)⟩

theorem structPassed_ready {s : State} (hr : Ready s) : Ready (structPassed s) :=
  ⟨hr.idle, hr.noFlight, hr.notAwaiting, hr.noInit, hr.closed, hr.quiet⟩

/-- RUN v of a container that passes both gates goes on to CK_BODY or PT_BODY, as V says (R210). -/
theorem run_struct_passes (v : Bool) {s : State} (hc : Calm s) (hsize : (hdrFileSize s.himg).zeroExtend 64 = s.len)
    (hversion : textOf s.pad s.himg 0 24 = Config.versionLit) :
    Ticks 1 (beginStruct (.run v) s) (afterStruct (.run v) (structPassed s)) := by
  have htick := Ticks.stage (s := beginStruct (.run v) s) hc rfl
    (struct_tick_passes (c := .run v) (s := beginStruct (.run v) s) hsize hversion)
  cases v <;> exact htick

theorem struct_sameInRun (v : Bool) {s : State} (hr : Ready s) (hhv : s.hv = true) (hl : 2124 ≤ s.len.toNat) :
    SameInRun (exec .valStruct s) (beginStruct (.run v) s) (fun u => u.sv = true ∧ 2124 ≤ u.len.toNat)
      (afterStruct (.run v)) := by
  by_cases hsize : (hdrFileSize s.himg).zeroExtend 64 = s.len
  · by_cases hversion : textOf s.pad s.himg 0 24 = Config.versionLit
    · exact .passes (exec_valStruct_passes hr hhv hsize hversion) (structPassed_ready hr) ⟨rfl, hl⟩
        ⟨1, by decide, run_struct_passes v hr.calm hsize hversion⟩
    · have hraise (c : Instr) := struct_tick_badVersion (c := c) (s := beginStruct c s) hsize hversion
      have hframe : Untouched s (versionRead { s with sv := false }) := by constructor <;> exact Eq.refl _
      exact .raises (c := .run v) (ph := .struct) (st := .struct)
        (exec_valStruct_raises (r := versionRead { s with sv := false }) hr hhv (hraise .valStruct) hframe) hr.calm
        ⟨1, by decide, .stage (s := beginStruct (.run v) s) hr.calm rfl (hraise (.run v))⟩
  · have hraise (c : Instr) := struct_tick_sizeMismatch (c := c) (s := beginStruct c s) hsize
    have hframe : Untouched s { s with sv := false } := by constructor <;> exact Eq.refl _
    exact .raises (c := .run v) (ph := .struct) (st := .struct)
      (exec_valStruct_raises (r := { s with sv := false }) hr hhv (hraise .valStruct) hframe) hr.calm
      ⟨1, by decide, .stage (s := beginStruct (.run v) s) hr.calm rfl (hraise (.run v))⟩

/-! The checksums -/

theorem region2Folded_ready {s : State} (passed : Bool) (hr : Ready s) : Ready (region2Folded passed s) :=
  ⟨hr.idle, hr.noFlight, hr.notAwaiting, hr.noInit, hr.closed, hr.quiet⟩

/-- RUN's CK_BODY goes on to PT_BODY, whatever stage it ended at (R210). -/
theorem afterCksum_run (v : Bool) (ph : Phase) (c : Instr) (st : Stage) (r : State) :
    afterCksum (.run v) (beginStage ph c st r) = beginTable (.run v) r := rfl

theorem cksum_sameInRun {s : State} (hr : Ready s) (hsv : s.sv = true) (hl : 2124 ≤ s.len.toNat) :
    SameInRun (exec .valCksum s) (beginCksum (.run true) s) (fun u => u.sv = true) (beginTable (.run true)) := by
  by_cases h1 : magicMatches s = true ∧ cksum (s.src.read 0 2120) ≠ hdrCrc1 s.himg
  · exact .raises (exec_valCksum_raises hr hsv (ck_ticks_crc1 .valCksum hr.calm hl h1) (region1Folded_untouched s))
      hr.calm (ck_ticks_crc1 (.run true) hr.calm hl h1)
  · by_cases h2 : cksum (s.src.read 2124 (s.len.toNat - 2124)) = hdrCrc2 s.himg
    · have hticks := ck_ticks_passes (.run true) hr.calm hl h1 h2
      rw [afterCksum_run] at hticks
      exact .passes (exec_valCksum_passes hr hsv hl h1 h2) (region2Folded_ready true hr) hsv hticks
    · exact .raises
        (exec_valCksum_raises hr hsv (ck_ticks_crc2 .valCksum hr.calm hl h1 h2) (region2Folded_untouched false s))
        hr.calm (ck_ticks_crc2 (.run true) hr.calm hl h1 h2)

/-! The table -/

theorem length_sourceTable (s : State) (n : Nat) : (sourceTable s n).length = n := by
  rw [sourceTable, List.length_map, List.length_range]

/-- A table is good to its end, or has a first bad record. -/
theorem first_bad_record (s : State) (n : Nat) :
    (∀ k, k < n → goodRecord s k) ∨ ∃ i, i < n ∧ (∀ k, k < i → goodRecord s k) ∧ ¬ goodRecord s i := by
  induction n with
  | zero => exact .inl fun k hk => absurd hk (Nat.not_lt_zero k)
  | succ n ih =>
    obtain hgood | ⟨i, hi, hbad⟩ := ih
    · by_cases hn : goodRecord s n
      · refine .inl fun k hk => ?_
        obtain hlt | rfl := Nat.lt_succ_iff_lt_or_eq.1 hk
        · exact hgood k hlt
        · exact hn
      · exact .inr ⟨n, Nat.lt_succ_self n, hgood, hn⟩
    · exact .inr ⟨i, Nat.lt_succ_of_lt hi, hbad⟩

/-- The length field of a record is its first read's four bytes (R153). -/
theorem pdLength_sourceRecord (s : State) (i : Nat) :
    pdLength (sourceRecord s i) = le32 (s.src.read (recordAddr s i) 4) 0 := by
  rw [pdLength, sourceRecord, show Config.pdSize = 4 + 2576 from rfl, Memory.read_append]
  exact le32_append (by rw [Memory.length_read])

section Table

variable (v : Bool) {s : State} {n : Nat}

/-- RUN's table standing before record n, the records before it all good. -/
theorem run_table_ticks (hc : Calm s) (hn : n ≤ (hdrPartitionCount s.himg).toNat)
    (hgood : ∀ k, k < n → goodRecord s k) :
    Ticks (2 * n) (beginTable (.run v) s) (beginStage .table (.run v) (.tabLen n) (tableRead n s)) :=
  table_prefix_ticks (.run v) n s _ hc rfl hn hgood

/-- RUN's table, with the records before record n good, raises what its next one or two micro-steps raise. -/
theorem run_table_raises {e : ErrInfo} {st : Stage} {r : State} {j : Nat} (hc : Calm s)
    (hn : n < (hdrPartitionCount s.himg).toNat) (hgood : ∀ k, k < n → goodRecord s k) (hj : j ≤ 2)
    (hnext : Ticks j (beginStage .table (.run v) (.tabLen n) (tableRead n s))
      (raise (.run v) e (beginStage .table (.run v) st r))) :
    ∃ k, k ≤ 2 ^ 64 + 2 ^ 20 ∧
      Ticks k (beginTable (.run v) s) (raise (.run v) e (beginStage .table (.run v) st r)) := by
  have hcount := (hdrPartitionCount s.himg).isLt
  exact ⟨2 * n + j, by omega, (run_table_ticks v hc hn.le hgood).trans hnext⟩

/-- RUN's table of good records goes on to X_BODY (R210). -/
theorem run_table_passes (hc : Calm s) (hn : n = (hdrPartitionCount s.himg).toNat)
    (hgood : ∀ k, k < n → goodRecord s k) : ∃ k, k ≤ 2 ^ 64 + 2 ^ 20 ∧
      Ticks k (beginTable (.run v) s) (beginExtract (.run v) { tableRead n s with tv := true }) := by
  have hcount := (hdrPartitionCount s.himg).isLt
  have hlast := Ticks.stage (s := beginStage .table (.run v) (.tabLen n) (tableRead n s)) hc rfl
    (congrArg some (tickTabLen_end (s := beginStage .table (.run v) (.tabLen n) (tableRead n s)) hn.ge))
  exact ⟨2 * n + 1, by omega, (run_table_ticks v hc hn.le hgood).trans hlast⟩

theorem tableRead_ready (hr : Ready s) : Ready { tableRead n s with tv := true } :=
  ⟨hr.idle, hr.noFlight, hr.notAwaiting, hr.noInit, hr.closed, hr.quiet⟩

theorem table_sameInRun (hr : Ready s) (hsv : s.sv = true) :
    SameInRun (exec .ptDecode s) (beginTable (.run v) s) (fun u => u.tv = true ∧ u.pt.length < 2 ^ 32)
      (beginExtract (.run v)) := by
  obtain hgood | ⟨i, hi, hgood, hbad⟩ := first_bad_record s (hdrPartitionCount s.himg).toNat
  · have hcount : (sourceTable s (hdrPartitionCount s.himg).toNat).length < 2 ^ 32 := by
      rw [length_sourceTable]
      exact (hdrPartitionCount s.himg).isLt
    exact .passes (exec_ptDecode_good hr hsv rfl hgood) (tableRead_ready hr) ⟨rfl, hcount⟩
      (run_table_passes v hr.calm rfl hgood)
  · have tick {t : State} (ht : tickTabLen (.run v) i (beginStage .table (.run v) (.tabLen i) (tableRead i s)) = t) :
        Ticks 1 (beginStage .table (.run v) (.tabLen i) (tableRead i s)) t :=
      .stage (s := beginStage .table (.run v) (.tabLen i) (tableRead i s)) hr.calm rfl (congrArg some ht)
    by_cases hlength : recordAddr s i + 4 ≤ s.len.toNat
    · by_cases hw : le32 (s.src.read (recordAddr s i) 4) 0 = 2580#32
      · have hbody : s.len.toNat < recordAddr s i + 2580 :=
          Nat.lt_of_not_le fun hle => hbad ⟨hle, (pdLength_sourceRecord s i).trans hw⟩
        have hread := tick (tickTabLen_goodLength
          (s := beginStage .table (.run v) (.tabLen i) (tableRead i s)) hi hlength hw)
        have hraise := Ticks.stage
          (s := beginStage .table (.run v) (.tabBody i (s.src.read (recordAddr s i) 4)) (lengthRead i s)) hr.calm rfl
          (congrArg some (tickTabBody_short
            (s := beginStage .table (.run v) (.tabBody i (s.src.read (recordAddr s i) 4)) (lengthRead i s)) hbody))
        exact .raises (exec_ptDecode_bodyShort hr hsv hi hgood hlength hw hbody) hr.calm
          (run_table_raises v hr.calm hi hgood (Nat.le_refl 2) (hread.trans hraise))
      · exact .raises (st := .tabLen i) (exec_ptDecode_badLength hr hsv hi hgood hlength hw) hr.calm
          (run_table_raises v hr.calm hi hgood (by decide) (tick (tickTabLen_badLength
            (s := beginStage .table (.run v) (.tabLen i) (tableRead i s)) hi hlength hw)))
    · have hshort := Nat.lt_of_not_le hlength
      exact .raises (st := .tabLen i) (exec_ptDecode_lengthShort hr hsv hi hgood hshort) hr.calm
        (run_table_raises v hr.calm hi hgood (by decide) (tick (tickTabLen_short
          (s := beginStage .table (.run v) (.tabLen i) (tableRead i s)) hi hshort)))

end Table

/-! The commands one by one -/

/-- The commands after the checksums. -/
def fromTable (s : State) : Host.Outcome State Fault Refusal := andThen (exec .ptDecode s) (exec .extract)

/-- The commands after the structural check. -/
def fromCksum (v : Bool) (s : State) : Host.Outcome State Fault Refusal :=
  andThen (if v then exec .valCksum s else .next s) fromTable

/-- The commands after the header. -/
def fromStruct (v : Bool) (s : State) : Host.Outcome State Fault Refusal := andThen (exec .valStruct s) (fromCksum v)

theorem stepwiseRun_eq (v : Bool) (s : State) : stepwiseRun v s = andThen (exec .hdrDecode s) (fromStruct v) := rfl

/-- What FAILED ignores (R215). -/
def IgnoredInFailed (rest : State → Host.Outcome State Fault Refusal) : Prop :=
  ∀ u, u.phase = .failed → rest u = .next u

theorem exec_ignored {i : Instr} (hi : i ≠ .init) : IgnoredInFailed (exec i) := fun _ hp => exec_failed hi hp

theorem IgnoredInFailed.andThen {first rest : State → Host.Outcome State Fault Refusal} (hfirst : IgnoredInFailed first)
    (hrest : IgnoredInFailed rest) : IgnoredInFailed fun u => andThen (first u) rest := fun u hp => by
  simp only [hfirst u hp]
  exact hrest u hp

theorem fromTable_ignored : IgnoredInFailed fromTable :=
  (exec_ignored (i := .ptDecode) nofun).andThen (exec_ignored (i := .extract) nofun)

theorem fromCksum_ignored (v : Bool) : IgnoredInFailed (fromCksum v) := by
  cases v with
  | false => exact fromTable_ignored
  | true => exact (exec_ignored (i := .valCksum) nofun).andThen fromTable_ignored

theorem fromStruct_ignored (v : Bool) : IgnoredInFailed (fromStruct v) :=
  (exec_ignored (i := .valStruct) nofun).andThen (fromCksum_ignored v)

/-- A body's command and the commands after it end where RUN's body and what follows it end. -/
theorem SameInRun.andThen {o : Host.Outcome State Fault Refusal} {a t : State} {P : State → Prop}
    {next : State → State} {rest : State → Host.Outcome State Fault Refusal} {n : Nat} (h : SameInRun o a P next)
    (hfailed : IgnoredInFailed rest) (hrest : ∀ u, Ready u → P u → rest u = .next t → EndsWithin n (next u) t)
    (ht : andThen o rest = .next t) : EndsWithin (bodyBound + n) a t := by
  obtain ⟨u, rfl, ⟨hp, hflight, k, hk, hticks⟩ | ⟨hr, hP, k, hk, hticks⟩⟩ := h
  · cases (hfailed u hp).symm.trans ht
    exact ⟨hflight, k, Nat.le_add_right_of_le hk, hticks⟩
  · obtain ⟨hflight, j, hj, hend⟩ := hrest u hr hP ht
    exact ⟨hflight, k + j, Nat.add_le_add hk hj, hticks.trans hend⟩

section Commands

variable {v : Bool} {s t : State}

theorem fromTable_inRun (hr : Ready s) (hsv : s.sv = true) (ht : fromTable s = .next t) (hb : t.busy = false) :
    EndsWithin (bodyBound + extractionBound) (beginTable (.run v) s) t :=
  (table_sameInRun v hr hsv).andThen (exec_ignored (i := .extract) nofun)
    (fun _ hr ⟨htv, hcount⟩ hu => exec_extract_ends hr htv hcount hu hb) ht

theorem fromCksum_inRun (hr : Ready s) (hsv : s.sv = true) (hl : 2124 ≤ s.len.toNat) (ht : fromCksum v s = .next t)
    (hb : t.busy = false) :
    EndsWithin (bodyBound + (bodyBound + extractionBound)) (afterStruct (.run v) s) t := by
  cases v with
  | false =>
    obtain ⟨hflight, k, hk, hticks⟩ := fromTable_inRun (v := false) hr hsv ht hb
    exact ⟨hflight, k, Nat.le_add_left_of_le hk, hticks⟩
  | true =>
    exact (cksum_sameInRun hr hsv hl).andThen fromTable_ignored
      (fun _ hr hsv hu => fromTable_inRun hr hsv hu hb) ht

theorem fromStruct_inRun (hr : Ready s) (hhv : s.hv = true) (hl : 2124 ≤ s.len.toNat) (ht : fromStruct v s = .next t)
    (hb : t.busy = false) :
    EndsWithin (bodyBound + (bodyBound + (bodyBound + extractionBound))) (beginStruct (.run v) s) t :=
  (struct_sameInRun v hr hhv hl).andThen (fromCksum_ignored v)
    (fun _ hr ⟨hsv, hl⟩ hu => fromCksum_inRun hr hsv hl hu hb) ht

theorem stepwiseRun_inRun (hr : Ready s) (ht : stepwiseRun v s = .next t) (hb : t.busy = false) :
    EndsWithin (bodyBound + (bodyBound + (bodyBound + (bodyBound + extractionBound)))) (beginHdr (.run v) s) t :=
  (header_sameInRun v hr).andThen (fromStruct_ignored v)
    (fun _ hr ⟨hhv, hl⟩ hu => fromStruct_inRun hr hhv hl hu hb) (stepwiseRun_eq v s ▸ ht)

end Commands

/-- Settles O46: RUN's micro-steps end in the state of the five commands, within the bound of one command. -/
theorem runIsTheFiveCommandsInOrder : Obligations.RunIsTheFiveCommandsInOrder := by
  intro v s t hr ht hb
  obtain ⟨hflight, k, hk, hticks⟩ := stepwiseRun_inRun hr ht hb
  exact congrArg _ (accept_to hr rfl (beginHdr_untouched _ s) hticks hflight (hk.trans (by decide)))

end Sys2Proof.Machine

namespace Sys2Proof.Machine

/-! RUN of a good container (R210, R213, R214): the five commands succeed one by one, so RUN ends where they end. -/

/-! The container's checks -/

/-- The checks of a container's header, which stands in HIMG, and for v = 1 of its checksums (R165, R170). -/
structure GoodHeader (v : Bool) (s : State) : Prop where
  length : 2124 ≤ s.len.toNat
  size : (hdrFileSize s.himg).zeroExtend 64 = s.len
  version : textOf s.pad s.himg 0 24 = Config.versionLit
  region1 : v = true → ¬ (magicMatches s = true ∧ cksum (s.src.read 0 2120) ≠ hdrCrc1 s.himg)
  region2 : v = true → cksum (s.src.read 2124 (s.len.toNat - 2124)) = hdrCrc2 s.himg

/-- The table's records are good, and every partition can be extracted (R150, R185). -/
structure GoodTable (s : State) : Prop where
  records : ∀ k, k < (hdrPartitionCount s.himg).toNat → goodRecord s k
  payloads : extractable s (sourceTable s (hdrPartitionCount s.himg).toNat)

/-! The five commands -/

/-- HDR_DECODE's registers but HIMG, which s has already. -/
def headerDone (s : State) : State := { clearMilestones s with hv := true, cur := 2124#64, held := true }

/-- The registers after the checksum commands of a good container, for either v. -/
def checksumsDone (v : Bool) (s : State) : State := if v then region2Folded true s else s

/-- What the first four commands leave of a good container with header s in HIMG, the milestone XD aside. -/
def tableDone (v : Bool) (s : State) : State :=
  { s with
    hv := true, sv := true, tv := true, cv := v, c1 := v && magicMatches s
    tbuf := unitsOf s.himg 0 24 ++ zeroUnits 232, tlen := 9#9
    ck := if v then cksum (s.src.read 2124 (s.len.toNat - 2124)) else s.ck
    pt := sourceTable s (hdrPartitionCount s.himg).toNat
    cur := BitVec.ofNat 64 (recordAddr s (hdrPartitionCount s.himg).toNat), held := true }

/-- A record's offset depends on the header alone, and the table's bytes on the source too (R151). -/
theorem recordAddr_congr {s t : State} (himg : t.himg = s.himg) (n : Nat) : recordAddr t n = recordAddr s n := by
  rw [recordAddr, recordAddr, himg]

theorem sourceTable_congr {s t : State} (hsrc : t.src = s.src) (himg : t.himg = s.himg) (n : Nat) :
    sourceTable t n = sourceTable s n := by
  refine List.map_congr_left fun k _ => ?_
  rw [sourceRecord, sourceRecord, recordAddr_congr himg, hsrc]

theorem checksumsDone_src (v : Bool) (s : State) : (checksumsDone v s).src = s.src := by cases v <;> rfl

theorem checksumsDone_himg (v : Bool) (s : State) : (checksumsDone v s).himg = s.himg := by cases v <;> rfl

/-- The registers of `tableDone` are those of the four commands, one after the other. -/
theorem tableDone_eq (v : Bool) (s : State) :
    { tableRead (hdrPartitionCount s.himg).toNat (checksumsDone v (structPassed (headerDone s))) with tv := true }
      = { tableDone v s with xd := false } := by
  have hsrc : (checksumsDone v (structPassed (headerDone s))).src = s.src := checksumsDone_src v _
  have himg : (checksumsDone v (structPassed (headerDone s))).himg = s.himg := checksumsDone_himg v _
  rw [tableRead, sourceTable_congr hsrc himg, recordAddr_congr himg]
  cases v with
  | false => rfl
  | true =>
    simp only [checksumsDone, if_true, region2Folded, structPassed, headerDone, clearMilestones, tableDone,
      magicMatches, Bool.true_and, Bool.true_or]
    rfl

section Good

variable {v : Bool} {s : State}

theorem Ready.withHeader (hr : Ready s) (B : List Byte) : Ready { s with himg := B } :=
  ⟨hr.idle, hr.noFlight, hr.notAwaiting, hr.noInit, hr.closed, hr.quiet⟩

theorem headerDone_ready (hr : Ready s) : Ready (headerDone s) :=
  ⟨hr.idle, hr.noFlight, hr.notAwaiting, hr.noInit, hr.closed, hr.quiet⟩

theorem checksumsDone_ready (hr : Ready s) : Ready (checksumsDone v s) := by
  cases v with
  | false => exact hr
  | true => exact region2Folded_ready true hr

theorem tableDone_ready (hr : Ready s) : Ready { tableDone v s with xd := false } :=
  ⟨hr.idle, hr.noFlight, hr.notAwaiting, hr.noInit, hr.closed, hr.quiet⟩

theorem fromStruct_good (hr : Ready s) (hhv : s.hv = true) (h : GoodHeader v s) :
    fromStruct v s = fromCksum v (structPassed s) := by
  rw [fromStruct, exec_valStruct_passes hr hhv h.size h.version]
  rfl

theorem fromCksum_good (hr : Ready s) (hsv : s.sv = true) (h : GoodHeader v s) :
    fromCksum v s = fromTable (checksumsDone v s) := by
  cases v with
  | false => rfl
  | true =>
    simp only [fromCksum, if_true, exec_valCksum_passes hr hsv h.length (h.region1 rfl) (h.region2 rfl)]
    rfl

theorem fromTable_good (hr : Ready s) (hsv : s.sv = true)
    (hgood : ∀ k, k < (hdrPartitionCount s.himg).toNat → goodRecord s k) :
    fromTable s = exec .extract { tableRead (hdrPartitionCount s.himg).toNat s with tv := true } := by
  rw [fromTable, exec_ptDecode_good hr hsv rfl hgood]
  rfl

/-- From VAL_STRUCT on, of a good container whose header is decoded. -/
theorem fromStruct_headerDone (hr : Ready s) (h : GoodHeader v s) (ht : GoodTable s) :
    fromStruct v (headerDone s) = exec .extract { tableDone v s with xd := false } := by
  have hready := headerDone_ready hr
  have hheader : GoodHeader v (headerDone s) := { h with }
  have hpassed : GoodHeader v (structPassed (headerDone s)) := { h with }
  have hgood : ∀ k, k < (hdrPartitionCount s.himg).toNat →
      goodRecord (checksumsDone v (structPassed (headerDone s))) k := by
    cases v <;> exact ht.records
  have hsv : (checksumsDone v (structPassed (headerDone s))).sv = true := by cases v <;> rfl
  have hcount : (checksumsDone v (structPassed (headerDone s))).himg = s.himg := checksumsDone_himg v _
  rw [fromStruct_good hready rfl hheader, fromCksum_good (structPassed_ready hready) rfl hpassed,
    fromTable_good (checksumsDone_ready (structPassed_ready hready)) hsv (by rw [hcount]; exact hgood), hcount,
    tableDone_eq]

/-! The extraction -/

/-- X_BODY sets XD whatever it was before (R185, R194). -/
theorem extractionEnd_setXd (table : List (List Byte)) (i : Nat) (x : Bool) (s : State) :
    extractionEnd (extractFrom i table { s with xd := x }) = extractionEnd (extractFrom i table s) := by
  have hxd : extractFrom i table { s with xd := x } = { extractFrom i table s with phase := s.phase, xd := x } :=
    extractFrom_phase table i s s.phase x
  obtain ⟨_, _, hphase, _⟩ := extractFrom_frame table i s
  rw [hxd, ← hphase]
  rfl

theorem extractOne_held (i : Nat) (D : List Byte) {s : State} (h : s.held = true) : (extractOne i D s).held = true := by
  unfold extractOne
  split
  · exact h
  · rfl

theorem extractFrom_held : ∀ (table : List (List Byte)) (i : Nat) {s : State}, s.held = true →
    (extractFrom i table s).held = true
  | [], _, _, h => h
  | D :: rest, i, _, h => extractFrom_held rest (i + 1) (extractOne_held i D h)

/-- An extraction that begins with the source held ends with SrcRelease (R194). -/
theorem extractionEnd_held {s : State} (h : s.held = true) :
    extractionEnd s = { s with xd := true, held := false, ev := s.ev ++ [.srcRelease] } := by
  rw [extractionEnd, if_pos h]

/-- What is left of a good container. -/
def runDone (v : Bool) (s : State) : State :=
  extractionEnd (extractFrom 0 (sourceTable s (hdrPartitionCount s.himg).toNat) (tableDone v s))

theorem exec_extract_tableDone (hr : Ready s) (ht : GoodTable s) :
    exec .extract { tableDone v s with xd := false } = .next (runDone v s) := by
  have hcount : (sourceTable s (hdrPartitionCount s.himg).toNat).length < 2 ^ 32 := by
    rw [length_sourceTable]
    exact (hdrPartitionCount s.himg).isLt
  refine (extractWritesEveryPartition _ (tableDone_ready hr) rfl hcount ht.payloads).trans (congrArg _ ?_)
  exact extractionEnd_setXd (sourceTable s (hdrPartitionCount s.himg).toNat) 0 false (tableDone v s)

/-- With no error latched before, the run is complete (R214). -/
theorem runDone_complete (hr : Ready s) (hk : s.errKind = .none) : runComplete (runDone v s) := by
  obtain ⟨_, _, hphase, _, hkind, hopen⟩ :=
    extractFrom_frame (sourceTable s (hdrPartitionCount s.himg).toNat) 0 (tableDone v s)
  exact ⟨hphase.trans hr.idle, rfl, hkind.trans hk, hopen.trans hr.closed, rfl⟩

theorem runDone_busy (hr : Ready s) : (runDone v s).busy = false := by
  obtain ⟨_, _, hphase, _⟩ := extractFrom_frame (sourceTable s (hdrPartitionCount s.himg).toNat) 0 (tableDone v s)
  have hidle : (runDone v s).phase = .idle := hphase.trans hr.idle
  rw [State.busy, hidle]
  rfl

end Good

/-! RUN -/

/-- RUN of a good container; s1 is s with the header in HIMG, a variable so that no proof evaluates its bytes. -/
theorem exec_run_good {v : Bool} {s s1 : State} (hr : Ready s) (hs1 : s1 = { s with himg := s.src.read 0 2124 })
    (h : GoodHeader v s1) (ht : GoodTable s1) : exec (.run v) s = .next (runDone v s1) := by
  have hl : 2124 ≤ s.len.toNat := by
    have := h.length
    rwa [hs1] at this
  have hr1 : Ready s1 := by
    rw [hs1]
    exact hr.withHeader _
  have hheader : headerRead s = headerDone s1 := by
    rw [hs1, headerRead, headerDone]
    generalize s.src.read 0 2124 = B
    rfl
  refine runIsTheFiveCommandsInOrder v s _ hr ?_ (runDone_busy hr1)
  rw [stepwiseRun_eq, exec_hdrDecode_reads hr hl, hheader]
  exact (fromStruct_headerDone hr1 h ht).trans (exec_extract_tableDone hr1 ht)

/-- Settles O47: the checks are those of the five commands, and what they leave is written out. -/
theorem runOfAGoodContainerCompletes : Obligations.RunOfAGoodContainerCompletes := by
  intro v s s1 hr hs1 hl hsize hversion hcksum hgood hx
  have hsrc : s1.src = s.src := by rw [hs1]
  have hlen : s1.len = s.len := by rw [hs1]
  have hpad : s1.pad = s.pad := by rw [hs1]
  have hck : s1.ck = s.ck := by rw [hs1]
  have hkind : s1.errKind = s.errKind := by rw [hs1]
  have hr1 : Ready s1 := by
    rw [hs1]
    exact hr.withHeader _
  rw [← hsrc, ← hlen] at hcksum
  have hheader : GoodHeader v s1 :=
    { length := hlen ▸ hl
      size := hlen ▸ hsize
      version := hpad ▸ hversion
      region1 := fun hv ⟨hmagic, hne⟩ => hne ((hcksum hv).1 (of_decide_eq_true hmagic))
      region2 := fun hv => (hcksum hv).2 }
  refine ⟨_, exec_run_good hr hs1 hheader ⟨hgood, hx⟩, fun hk => runDone_complete hr1 (hkind.trans hk), ?_⟩
  rw [← hsrc, ← hlen, ← hck]
  exact extractionEnd_held (extractFrom_held _ 0 rfl)

end Sys2Proof.Machine

namespace Sys2Proof.Machine

/-! The error entry (R236): its micro-steps one by one, its end, and the word it leaves at ERR (R226, R227). -/

section ErrorEntry

variable {s : State} {c : Instr} {e : ErrInfo}

theorem errorStep_open (hd : s.dopen = true) :
    errorStep e s = { s with ev := s.ev ++ [.dstClose], dopen := false } := by
  rw [errorStep, if_pos hd, closeIfOpen, if_pos hd, emit]

theorem errorStep_held (hd : s.dopen = false) (hh : s.held = true) :
    errorStep e s = { s with ev := s.ev ++ [.srcRelease], held := false } := by
  rw [errorStep, if_neg (Bool.eq_false_iff.1 hd), if_pos hh, releaseIfHeld, if_pos hh, emit]

theorem errorStep_released (hd : s.dopen = false) (hh : s.held = false) : errorStep e s = latchError e s := by
  rw [errorStep, if_neg (Bool.eq_false_iff.1 hd), if_neg (Bool.eq_false_iff.1 hh)]

/-- What the error entry does next depends on the two handles alone, not on a transaction having waited. -/
theorem errorStep_notAwaiting (e : ErrInfo) (s : State) :
    errorStep e { s with awaiting := false } = { errorStep e s with awaiting := false } := by
  obtain hd | hd := Bool.eq_false_or_eq_true s.dopen
  · rw [errorStep_open hd]
    exact errorStep_open (s := { s with awaiting := false }) hd
  · obtain hh | hh := Bool.eq_false_or_eq_true s.held
    · rw [errorStep_held hd hh]
      exact errorStep_held (s := { s with awaiting := false }) hd hh
    · rw [errorStep_released hd hh]
      exact errorStep_released (s := { s with awaiting := false }) hd hh

theorem engineTick_raising (hf : s.flight = some ⟨c, .raising e⟩) (hinit : s.initPending = false) :
    engineTick s = some { errorStep e s with awaiting := false } :=
  engineTick_stage hf hinit rfl

/-- Two states with the same first micro-step reach the same end in as many micro-steps, if there is a first one. -/
theorem Ticks.of_engineTick_eq {k : Nat} {s u t : State} (h : Ticks k u t) (hfirst : engineTick s = engineTick u)
    (hne : u ≠ t) : Ticks k s t := by
  cases h with
  | refl => exact absurd rfl hne
  | head hu hrest => exact .head (hfirst.trans hu) hrest

/-- At most three micro-steps end the error entry from wherever it stands: `raise_ticks` without its calm start. -/
theorem raising_ticks (hf : s.flight = some ⟨c, .raising e⟩) (hinit : s.initPending = false) :
    ∃ k, k ≤ 3 ∧ Ticks k s (failedWith e { s with awaiting := false }) := by
  obtain ⟨k, hk, hticks⟩ := raise_ticks c e { s with awaiting := false } ⟨rfl, hinit⟩
  have hraised : raise c e { s with awaiting := false } = { s with awaiting := false } := by rw [raise, goTo, ← hf]
  rw [hraised] at hticks
  have hfirst : engineTick s = engineTick { s with awaiting := false } := by
    rw [engineTick_raising hf hinit, engineTick_raising (s := { s with awaiting := false }) hf hinit,
      errorStep_notAwaiting]
  have hne : { s with awaiting := false } ≠ failedWith e { s with awaiting := false } := fun heq =>
    Option.some_ne_none _ (hf.symm.trans (congrArg State.flight heq))
  exact ⟨k, hk, hticks.of_engineTick_eq hfirst hne⟩

end ErrorEntry

/-- Settles O17: each micro-step by the handles still held, and the run by the micro-steps to the entry's end. -/
theorem errorEntryReleasesThenLatches : Obligations.ErrorEntryReleasesThenLatches := by
  intro s c e hf hinit
  have htick := engineTick_raising hf hinit
  refine ⟨fun hd => ?_, fun hd hh => ?_, fun hd hh => ?_, fun hin => ?_⟩
  · rw [htick, errorStep_open hd]
  · rw [htick, errorStep_held hd hh]
  · rw [htick, errorStep_released hd hh, latchError]
  · obtain ⟨k, hk, hticks⟩ := raising_ticks hf hinit
    exact ⟨k, hk, run_of_ticks hticks hin⟩

/-- Settles O18: the word is the kind and the cause, and a cause determines its kind. -/
theorem errorWordOfEachCause : Obligations.ErrorWordOfEachCause := by
  intro s e hcause
  rw [errWord_failedWith rfl s]
  generalize e.cause = cause at hcause
  cases cause with
  | none => exact absurd rfl hcause
  | _ => rfl

end Sys2Proof.Machine

namespace Sys2Proof.Machine

/-! Hardware reset (R250, R252) -/

theorem abandonDest_closed (unknown : List Byte) (ds : List Dest) : abandonDest false unknown ds = ds := by
  cases ds <;> rfl

/-- With no destination open hardware reset leaves every destination as it was (U6). -/
theorem hardwareReset_dests {s : State} (h : s.dopen = false) : (hardwareReset s).dests = s.dests := by
  rw [hardwareReset, h, abandonDest_closed]

/-- Settles O15: the step is hardware reset, which sets the registers and EV and nothing of the host's. -/
theorem hardwareResetIsSilent : Obligations.HardwareResetIsSilent := fun _ _ hin =>
  ⟨_, step_act hin rfl, hardwareReset_values _, rfl, rfl, rfl, rfl, rfl, rfl, rfl, rfl, rfl, rfl, hardwareReset_dests⟩

end Sys2Proof.Machine

namespace Sys2Proof.Machine

/-! Every command ends (R262): what is left of a command in flight, in micro-steps, falls with each of them, and is below
the bound of `drain` at every start. -/

/-! How many micro-steps a command has left -/

/-- More than the micro-steps of a table and of the extraction RUN goes on to: two for each of fewer than 2^32 records,
and those of its partition. -/
abbrev tableBound : Nat := 2 ^ 32 * partitionBound + 2 * 2 ^ 32 + 5

/-- More than the micro-steps of region 2, one for each byte at most, and of the table after it. -/
abbrev region2Bound : Nat := tableBound + 2 ^ 64

/-- More than the micro-steps of region 1, one for each byte at most, and of region 2 after it. -/
abbrev checksumBound : Nat := region2Bound + (Config.crc1Len + 1)

/-- The records of the table from number i on. -/
def recordsFrom (i : Nat) (s : State) : Nat := (hdrPartitionCount s.himg).toNat - i

/-- A bound on the micro-steps left of a command that stands at a stage, those of the later stages of RUN among them. -/
def commandLeft (s : State) : Stage → Nat
  | .hdr => checksumBound + 1
  | .struct => checksumBound
  | .fold1 p => region2Bound + (Config.crc1Len - p)
  | .fold2 p => tableBound + (s.len.toNat - p)
  | .tabLen i => (s.pt.length + recordsFrom i s) * partitionBound + 2 * recordsFrom i s + 5
  | .tabBody i _ => (s.pt.length + 1 + recordsFrom (i + 1) s) * partitionBound + 2 * recordsFrom (i + 1) s + 6
  | .ckReset | .ckUpdate _ | .seek | .rdU16 | .rdU32 | .rdText _ => 4
  | .part i => stepsLeft s (.part i)
  | .chunkRead i p rem size => stepsLeft s (.chunkRead i p rem size)
  | .chunkWrite i p rem size B => stepsLeft s (.chunkWrite i p rem size B)
  | .progress i p rem size => stepsLeft s (.progress i p rem size)
  | .raising e => stepsLeft s (.raising e)

/-- The same bound for the command in flight: 0 when there is none. -/
def flightLeft (s : State) : Nat := (s.flight.map fun f => commandLeft s f.stage).getD 0

theorem flightLeft_of_flight {s : State} {f : Flight} (hf : s.flight = some f) :
    flightLeft s = commandLeft s f.stage := by
  rw [flightLeft, hf]
  rfl

theorem flightLeft_noFlight {s : State} (hf : s.flight = none) : flightLeft s = 0 := by
  rw [flightLeft, hf]
  rfl

theorem commandLeft_ofExtraction {st : Stage} (hst : st.ofExtraction = true) (s : State) :
    commandLeft s st = stepsLeft s st := by
  cases st with
  | part _ | chunkRead _ _ _ _ | chunkWrite _ _ _ _ _ | progress _ _ _ _ | raising _ => rfl
  | _ => cases hst

/-! What a command has left where it ends, fails, or begins a stage -/

theorem complete_left {n : Nat} {s : State} (h : 0 < n) : flightLeft (complete s) < n := h

/-- The error entry has at most three micro-steps (R236). -/
theorem raise_left {c : Instr} {e : ErrInfo} {n : Nat} {s : State} (h : 4 ≤ n) : flightLeft (raise c e s) < n := by
  refine Nat.lt_of_lt_of_le ?_ h
  have hopen := s.dopen.toNat_lt
  have hheld := s.held.toNat_lt
  change s.dopen.toNat + s.held.toNat + 1 < 4
  omega

theorem goTo_left (c : Instr) (st : Stage) (s : State) : flightLeft (goTo c st s) = commandLeft (goTo c st s) st := rfl

theorem beginExtract_flightLeft (c : Instr) (s : State) :
    flightLeft (beginExtract c s) = s.pt.length * partitionBound + 4 := rfl

theorem afterTable_left (c : Instr) (s : State) : flightLeft (afterTable c s) < s.pt.length * partitionBound + 5 := by
  unfold afterTable
  split
  · exact Nat.lt_succ_self _
  · exact complete_left (Nat.succ_pos _)

theorem beginTable_left (c : Instr) (s : State) : flightLeft (beginTable c s) < tableBound := by
  have hcount := (hdrPartitionCount s.himg).isLt
  change (0 + (hdrPartitionCount s.himg).toNat) * partitionBound + 2 * (hdrPartitionCount s.himg).toNat + 5 < _
  simp only [tableBound, partitionBound]
  omega

theorem afterCksum_left (c : Instr) (s : State) : flightLeft (afterCksum c s) < tableBound := by
  unfold afterCksum
  split
  · exact beginTable_left _ _
  · exact complete_left (by decide)

theorem beginRegion2_left (c : Instr) (s : State) : flightLeft (beginRegion2 c s) < region2Bound := by
  have hlen := s.len.isLt
  change tableBound + (s.len.toNat - 2124) < tableBound + 2 ^ 64
  omega

theorem beginCksum_left (c : Instr) (s : State) : flightLeft (beginCksum c s) < checksumBound := by
  unfold beginCksum
  split
  · exact Nat.lt_succ_self (region2Bound + Config.crc1Len)
  · exact (beginRegion2_left _ _).trans_le (Nat.le_add_right _ _)

theorem afterStruct_left (c : Instr) (s : State) : flightLeft (afterStruct c s) < checksumBound := by
  unfold afterStruct
  split
  · exact beginCksum_left _ _
  · exact (beginTable_left _ _).trans_le (by decide)
  · exact complete_left (by decide)

theorem afterHdr_left (c : Instr) (s : State) : flightLeft (afterHdr c s) < checksumBound + 1 := by
  unfold afterHdr
  split
  · exact Nat.lt_succ_self checksumBound
  · exact complete_left (by decide)

/-! Each micro-step leaves less -/

theorem tickRdU16_left (c : Instr) (s : State) : flightLeft (tickRdU16 c s) < 4 := by
  unfold tickRdU16
  obtain ⟨_, h⟩ | ⟨_, h⟩ := memRead_cases 0#32 s.cur.toNat 2 s <;> rw [h]
  · exact raise_left (le_refl 4)
  · exact complete_left (by decide)

theorem tickRdU32_left (c : Instr) (s : State) : flightLeft (tickRdU32 c s) < 4 := by
  unfold tickRdU32
  obtain ⟨_, h⟩ | ⟨_, h⟩ := memRead_cases 0#32 s.cur.toNat 4 s <;> rw [h]
  · exact raise_left (le_refl 4)
  · exact complete_left (by decide)

theorem tickRdText_left (c : Instr) (n : Nat) (s : State) : flightLeft (tickRdText c n s) < 4 := by
  unfold tickRdText
  obtain ⟨_, h⟩ | ⟨_, h⟩ := memRead_cases 0#32 s.cur.toNat (2 * n) s <;> rw [h]
  · exact raise_left (le_refl 4)
  · exact complete_left (by decide)

theorem tickHdr_left (c : Instr) (s : State) : flightLeft (tickHdr c s) < checksumBound + 1 := by
  unfold tickHdr
  split
  · exact raise_left (by decide)
  · obtain ⟨_, h⟩ | ⟨_, h⟩ := memRead_cases 0#32 0 Config.hdrSize s <;> rw [h]
    · exact raise_left (by decide)
    · exact afterHdr_left _ _

theorem tickStruct_left (c : Instr) (s : State) : flightLeft (tickStruct c s) < checksumBound := by
  simp only [tickStruct]
  split
  · exact raise_left (by decide)
  · split
    · exact raise_left (by decide)
    · exact afterStruct_left _ _

/-- A piece of a region is at least one of the bytes still to fold (R170). -/
theorem foldPiece_left {c : Instr} {next : Nat → Stage} {p b B : Nat} {s : State} (hB : 4 ≤ B) (hp : p < b)
    (hnext : ∀ q (t : State), t.len = s.len → commandLeft t (next q) = B + (b - q)) :
    flightLeft (foldPiece c next p b s) < B + (b - p) := by
  simp only [foldPiece]
  obtain ⟨_, h⟩ | ⟨_, h⟩ := memRead_cases 0#32 p (min (s.cchunk : Nat) (b - p)) s <;> rw [h]
  · exact raise_left (hB.trans (Nat.le_add_right _ _))
  · have hpiece := s.cchunk.pos
    dsimp only
    rw [goTo_left, hnext]
    · omega
    · rfl

theorem tickFold1_left (c : Instr) (p : Nat) (s : State) :
    flightLeft (tickFold1 c p s) < region2Bound + (Config.crc1Len - p) := by
  unfold tickFold1
  split_ifs with hp
  · exact foldPiece_left (by decide) hp fun _ _ _ => rfl
  · exact raise_left (Nat.le_add_right_of_le (by decide))
  · exact (beginRegion2_left _ _).trans_le (Nat.le_add_right _ _)

theorem tickFold2_left (c : Instr) (p : Nat) (s : State) :
    flightLeft (tickFold2 c p s) < tableBound + (s.len.toNat - p) := by
  unfold tickFold2
  split_ifs with hp
  · exact foldPiece_left (by decide) hp fun _ _ hlen => by rw [commandLeft, hlen]
  · exact raise_left (Nat.le_add_right_of_le (by decide))
  · exact (afterCksum_left _ _).trans_le (Nat.le_add_right _ _)

theorem tickTabLen_left (c : Instr) (i : Nat) (s : State) :
    flightLeft (tickTabLen c i s) < commandLeft s (.tabLen i) := by
  have hroom : 4 ≤ commandLeft s (.tabLen i) := by rw [commandLeft]; omega
  unfold tickTabLen
  split
  next hi =>
    obtain ⟨_, h⟩ | ⟨_, h⟩ := memRead_cases (indexWord i) (recordAddr s i) 4 s <;> rw [h]
    · exact raise_left hroom
    · dsimp only
      split
      · exact raise_left hroom
      · rw [goTo_left]
        simp only [commandLeft, recordsFrom, partitionBound, goTo_pt, goTo_himg, setCursor_pt, setCursor_himg]
        omega
  next =>
    refine (afterTable_left _ _).trans_le ?_
    simp only [commandLeft, partitionBound]
    omega

theorem tickTabBody_left (c : Instr) (i : Nat) (W : List Byte) (s : State) :
    flightLeft (tickTabBody c i W s) < commandLeft s (.tabBody i W) := by
  have hroom : 4 ≤ commandLeft s (.tabBody i W) := by rw [commandLeft]; omega
  unfold tickTabBody
  obtain ⟨_, h⟩ | ⟨_, h⟩ := memRead_cases (indexWord i) (recordAddr s i + 4) 2576 s <;> rw [h]
  · exact raise_left hroom
  · dsimp only
    rw [goTo_left]
    simp only [commandLeft, recordsFrom, goTo_pt, goTo_himg, setCursor_pt, setCursor_himg, List.length_append,
      List.length_singleton]
    exact Nat.lt_succ_self _

theorem extractionTick_left {c : Instr} {st : Stage} {s u : State} (hf : s.flight = some ⟨c, st⟩)
    (hst : st.ofExtraction = true) (h : stageTick ⟨c, st⟩ s = some u) : flightLeft u < commandLeft s st := by
  rw [commandLeft_ofExtraction hst]
  obtain hdone | ⟨g, hg, hgst, _, hleft⟩ := stageTick_proceeds hf hst h
  · rw [flightLeft_noFlight hdone]
    cases st with
    | part _ | chunkRead _ _ _ _ | chunkWrite _ _ _ _ _ | progress _ _ _ _ | raising _ => exact Nat.succ_pos _
    | _ => cases hst
  · rwa [flightLeft_of_flight hg, commandLeft_ofExtraction hgst]

theorem stageTick_left {c : Instr} {st : Stage} {s u : State} (hf : s.flight = some ⟨c, st⟩)
    (h : stageTick ⟨c, st⟩ s = some u) : flightLeft u < commandLeft s st := by
  cases st with
  | ckReset | ckUpdate _ | seek => cases h; exact complete_left (Nat.succ_pos 3)
  | rdU16 => cases h; exact tickRdU16_left c s
  | rdU32 => cases h; exact tickRdU32_left c s
  | rdText n => cases h; exact tickRdText_left c n.toNat s
  | hdr => cases h; exact tickHdr_left c s
  | struct => cases h; exact tickStruct_left c s
  | fold1 p => cases h; exact tickFold1_left c p s
  | fold2 p => cases h; exact tickFold2_left c p s
  | tabLen i => cases h; exact tickTabLen_left c i s
  | tabBody i W => cases h; exact tickTabBody_left c i W s
  | part _ | chunkRead _ _ _ _ | chunkWrite _ _ _ _ _ | progress _ _ _ _ | raising _ =>
    exact extractionTick_left hf rfl h

/-- Twice what is left of the command in flight, and one more where a transaction may still be put on the port to wait. -/
def ticksLeft (s : State) : Nat := 2 * flightLeft s + (!s.awaiting).toNat

theorem ticksLeft_le (s : State) : ticksLeft s ≤ 2 * flightLeft s + 1 :=
  Nat.add_le_add_left (Nat.le_of_lt_succ (Bool.toNat_lt _)) _

/-- Each micro-step leaves fewer, an INIT that follows it none. -/
theorem engineTick_left {s t : State} (ht : engineTick s = some t) : ticksLeft t < ticksLeft s := by
  obtain ⟨⟨c, st⟩, hf, ⟨u, hu, _, hend⟩ | ⟨_, hawait, rfl⟩⟩ := engineTick_cases ht
  · have hless : flightLeft t < flightLeft s := by
      have hleft := stageTick_left hf hu
      rw [flightLeft_of_flight hf]
      obtain ⟨_, rfl⟩ | ⟨_, rfl⟩ := hend
      · exact hleft
      · rw [flightLeft_noFlight (performInit_values _).continuation.1]
        exact Nat.zero_lt_of_lt hleft
    have hle := ticksLeft_le t
    have hge : 2 * flightLeft s ≤ ticksLeft s := Nat.le_add_right _ _
    omega
  · rw [ticksLeft, ticksLeft, hawait]
    exact Nat.lt_succ_self _

/-- A command is drained to where no micro-step is left, when its bound is. -/
theorem drain_ends {n : Nat} {s : State} (hn : ticksLeft s ≤ n) : engineTick (drain n s) = none := by
  induction n generalizing s with
  | zero =>
    cases ht : engineTick s with
    | none => exact ht
    | some t => exact absurd (engineTick_left ht) (by omega)
  | succ n ih =>
    cases ht : engineTick s with
    | none => rwa [drain_none ht]
    | some t =>
      have hless := engineTick_left ht
      rw [drain_some ht]
      exact ih (by omega)

/-! Where no micro-step is left -/

/-- The engine has nothing to do where no command is in flight, or where it waits for an answer (U15). -/
theorem engineTick_none_cases {s : State} (h : engineTick s = none) :
    s.flight = none ∨ ∃ f, s.flight = some f ∧ stageTick f s = none ∧ s.awaiting = true := by
  cases hf : s.flight with
  | none => exact .inl rfl
  | some f =>
    refine .inr ⟨f, rfl, ?_⟩
    cases hu : stageTick f s with
    | some u => simp [engineTick, hf, hu] at h
    | none =>
      cases ha : s.awaiting with
      | false => cases (engineTick_waits hf hu ha).symm.trans h
      | true => exact ⟨rfl, rfl⟩

theorem openAnswers_nil_of_stageTick_none {c : Instr} {i : Nat} {s : State} (h : stageTick ⟨c, .part i⟩ s = none) :
    s.openAnswers = [] := by
  simp only [stageTick, tickPart] at h
  split at h
  · split at h
    · cases h
    · split at h
      next ha => exact ha
      next => split at h <;> cases h
  · cases h

theorem writeAnswers_nil_of_stageTick_none {c : Instr} {i p rem size : Nat} {B : List Byte} {s : State}
    (h : stageTick ⟨c, .chunkWrite i p rem size B⟩ s = none) : s.writeAnswers = [] := by
  simp only [stageTick, tickChunkWrite] at h
  split at h
  next ha => exact ha
  next => split at h <;> cases h

/-- The command in flight waits for an answer that the host has not given (U15). -/
def WaitsForHost (t : State) : Prop :=
  t.awaiting = true ∧ ∃ c, (∃ j, t.flight = some ⟨c, .part j⟩ ∧ t.openAnswers = [])
    ∨ ∃ j p rem size B, t.flight = some ⟨c, .chunkWrite j p rem size B⟩ ∧ t.writeAnswers = []

theorem waitsForHost_of_stageTick_none {f : Flight} {s : State} (hf : s.flight = some f) (ha : s.awaiting = true)
    (h : stageTick f s = none) : WaitsForHost s := by
  obtain ⟨c, st⟩ := f
  cases st with
  | part j => exact ⟨ha, c, .inl ⟨j, hf, openAnswers_nil_of_stageTick_none h⟩⟩
  | chunkWrite j p rem size B => exact ⟨ha, c, .inr ⟨j, p, rem, size, B, hf, writeAnswers_nil_of_stageTick_none h⟩⟩
  | _ => cases h

/-- With the invariant, the engine has nothing to do in IDLE, in FAILED, and while the host owes an answer. -/
theorem State.Inv.rests {s : State} (h : s.Inv) (hend : engineTick s = none) :
    s.phase = .idle ∨ s.phase = .failed ∨ WaitsForHost s := by
  obtain hf | ⟨f, hf, hnone, ha⟩ := engineTick_none_cases hend
  · have hbusy : s.phase.busy = false := by rw [← State.busy, ← h.inFlight.1, hf]; rfl
    cases hp : s.phase with
    | idle => exact .inl rfl
    | failed => exact .inr (.inl rfl)
    | _ => simp [hp, Phase.busy] at hbusy
  · exact .inr (.inr (waitsForHost_of_stageTick_none hf ha hnone))

/-! Every command, from IDLE (R205, R262) -/

/-- A command accepted in IDLE by a quiet host fails, or is run to where no micro-step is left. -/
theorem accept_ends {c : Instr} {start : State → State} {s : State} (hp : s.phase = .idle)
    (hquiet : hostQuiet s = true) (hframe : Untouched s (start s)) (hleft : flightLeft (start s) < checksumBound + 2) :
    (accept c start s).phase = .failed ∨ engineTick (accept c start s) = none := by
  cases hm : missing (precondition c) s with
  | some m => exact .inl (by rw [accept_missing start hp hm]; rfl)
  | none =>
    have hquiet' : hostQuiet (start s) = true := by
      rw [hostQuiet] at hquiet ⊢
      rwa [hframe.inbox]
    have hbound : ticksLeft (start s) ≤ drainBound := by
      have hle := ticksLeft_le (start s)
      simp only [checksumBound, region2Bound, tableBound, partitionBound, Config.crc1Len, drainBound] at *
      omega
    rw [accept_idle hp hm, settle_quiet hquiet']
    exact .inr (drain_ends hbound)

/-- A primitive has one micro-step, or the error entry besides. -/
theorem accept_prim_ends {c : Instr} {st : Stage} {s : State} (hp : s.phase = .idle) (hquiet : hostQuiet s = true)
    (hst : commandLeft (beginStage .prim c st s) st = 4) :
    (accept c (beginStage .prim c st) s).phase = .failed ∨ engineTick (accept c (beginStage .prim c st) s) = none :=
  accept_ends hp hquiet (beginStage_untouched _ _ _ s) (by
    rw [flightLeft_of_flight rfl, hst]
    decide)

theorem exec_ends {i : Instr} {s t : State} (h : s.Inv) (hp : s.phase = .idle) (hquiet : hostQuiet s = true)
    (ht : exec i s = .next t) : t.phase = .failed ∨ engineTick t = none := by
  cases i with
  | ckReset | ckUpdate _ | seek | rdU16 | rdU32 => cases ht; exact accept_prim_ends hp hquiet rfl
  | rdText n =>
    change execRdText n s = .next t at ht
    unfold execRdText at ht
    split at ht <;> cases ht
    · exact accept_prim_ends hp hquiet rfl
    · rw [acceptIllegal_idle _ hp]
      exact .inl rfl
  | hdrDecode | run _ =>
    cases ht
    exact accept_ends hp hquiet (beginHdr_untouched _ s) (Nat.lt_succ_self (checksumBound + 1))
  | valStruct =>
    cases ht
    exact accept_ends hp hquiet (beginStruct_untouched _ s) (Nat.lt_add_of_pos_right (n := checksumBound) (by decide))
  | valCksum =>
    cases ht
    exact accept_ends hp hquiet (beginCksum_untouched _ s) ((beginCksum_left _ s).trans_le (Nat.le_add_right _ _))
  | ptDecode =>
    cases ht
    exact accept_ends hp hquiet (beginTable_untouched _ s) ((beginTable_left _ s).trans_le (by decide))
  | extract =>
    cases ht
    refine accept_ends hp hquiet (beginExtract_untouched _ s) ?_
    have hcount := h.count
    rw [beginExtract_flightLeft]
    simp only [checksumBound, region2Bound, tableBound, partitionBound]
    omega
  | init =>
    cases (execInit_of_not_awaiting (h.idle hp).2.2.1).symm.trans ht
    exact .inr (engineTick_noFlight (performInit_values s).continuation.1)

/-- Settles O57: what is left of a command runs out within the bound of its one step, and the invariant says what a state
with nothing left is. -/
theorem everyCommandEnds : Obligations.EveryCommandEnds := by
  intro i s t h hp hquiet ht
  obtain hfailed | hend := exec_ends h hp hquiet ht
  · exact .inr (.inl hfailed)
  · exact (exec_inv h ht).rests hend

end Sys2Proof.Machine
